-- ==== Sys2Proof/Word.lean ====
section
/-! DEFINITION. The word types of the HTU31D measurement engine (00_scope.md R5, R6: every integer is unsigned, bit 0 is least significant). -/

namespace Sys2Proof

/-- u8: a command byte, a reply byte, a CRC (R50, R52, R100). -/
abbrev Byte := BitVec 8

/-- u16: an operand or a raw count (R72). -/
abbrev U16 := BitVec 16

/-- A host request word `REQ[23:0]` (R70). -/
abbrev Req := BitVec 24

/-- u32: a host-visible register (R31). -/
abbrev U32 := BitVec 32

end Sys2Proof
end

