-- ==== Sys2Proof/Config.lean ====
section
/-! DEFINITION. The implementation parameters of 00_scope.md R5, and the free values: constants with no body, for what the spec leaves unspecified. -/

namespace Sys2Proof

/-- `DEV_ADDR`: `0x40`, or the documented alternate `0x41` (R5, R62). -/
inductive DevAddr where
  /-- `0x40`, the default. -/
  | primary
  /-- `0x41`. -/
  | alternate
deriving DecidableEq, Repr

/-- `CONV_ROUNDING` (R5, R180). -/
inductive ConvRounding where
  /-- `EXACT_RNE`, the default: the exact rational rounded once. -/
  | exactRne
  /-- `F32_STEPWISE`: every binary32 operation rounded. -/
  | f32Stepwise
deriving DecidableEq, Repr

/-- The parameters of R5 that have more than one legal value.  A state carries one `Config`, no step
writes it, and so every statement about all states is a statement about all parameter values
(log entry 2). -/
structure Config where
  /-- `DEV_ADDR`: handed to the transport, never read by the block (R51). -/
  devAddr : DevAddr
  /-- `SERIAL_ZERO_IS_FAILURE` (R130 step B4, 93 I1). -/
  serialZeroIsFailure : Bool
  /-- `CONV_ROUNDING` (R180, 93 I4). -/
  convRounding : ConvRounding
deriving DecidableEq, Repr

namespace Config

/-- The value R5 gives each parameter. -/
def default : Config :=
  { devAddr := .primary, serialZeroIsFailure := true, convRounding := .exactRne }

/-- `T_RESET_MS`, fixed for this hardware (R5, R250). -/
def tResetMs : BitVec 16 := 15

/-- `T_CONV_MS`, fixed for this hardware (R5, R250). -/
def tConvMs : BitVec 16 := 20

/-- FREE VALUE (log entry 5): `CUR_OP` once an operation has ended; its value while `BUSY == 0` is
unspecified (R26, 93 I7).  Applied to `State.draws`. -/
opaque freeCurOp : Nat → BitVec 3

/-- FREE VALUE (log entry 5): `CUR_ARG` once an operation has ended (R26, 93 I7). -/
opaque freeCurArg : Nat → BitVec 17

/-- FREE VALUE (log entry 4): the input `NOW_MS` where the state lists no more samples of it
(R33, 93 I14). -/
opaque freeNowMs : Nat → U32

end Config

end Sys2Proof
end

