-- ==== Sys2Proof/Machine/Convert.lean ====
section
/-! DEFINITION. The raw-to-physical converter (42_conversion.md): binary32 rounding of exact rationals (00_scope.md R7), the binary32 operations, and the two functions of R180 in both rounding modes. -/

namespace Sys2Proof
namespace Machine

/-! ### Rounding (R7; R180 for the encoding) -/

/-- The 31-bit pattern of the magnitude `num / den` rounded to the nearest binary32 value, ties to
even.  The magnitude is counted in units of `2 ^ -149`, the least subnormal; `t` is how many binades
above the subnormals it lies, `q` its significand in that binade.  A magnitude past the largest finite
value gives infinity. -/
def roundMagnitude (num den : Nat) : Nat :=
  let n := num * 2 ^ 149
  let t := Nat.log2 (n / den) - 23
  let d := den * 2 ^ t
  let q := n / d
  let r := n % d
  let sig := if d < 2 * r ∨ (2 * r = d ∧ q % 2 = 1) then q + 1 else q
  min (t * 2 ^ 23 + sig) 0x7F800000

/-- `bits32(rne32(num / den))` (R7, R180). -/
def rne32 (num : Int) (den : Nat) : U32 :=
  if num < 0 then BitVec.ofNat 32 (2 ^ 31 + roundMagnitude num.natAbs den)
  else BitVec.ofNat 32 (roundMagnitude num.natAbs den)

/-- The value of a finite binary32 pattern, as a count of units of `2 ^ -149` (R180). -/
def unitsOf (b : U32) : Int :=
  let m : Nat := b.toNat % 2 ^ 31
  let e : Nat := m / 2 ^ 23
  let f : Nat := m % 2 ^ 23
  let u : Nat := if e = 0 then f else (2 ^ 23 + f) * 2 ^ (e - 1)
  if b.getLsbD 31 then -(u : Int) else (u : Int)

/-! ### The binary32 operations (R7: one operation on exact values, rounded once) -/

/-- An integer as a binary32 value. -/
def f32OfNat (n : Nat) : U32 := rne32 n 1

/-- `fl32_div`, for a divisor above 0 (R180 divides by 65535 alone). -/
def fl32Div (a b : U32) : U32 := rne32 (unitsOf a) (unitsOf b).natAbs

/-- `fl32_mul`. -/
def fl32Mul (a b : U32) : U32 := rne32 (unitsOf a * unitsOf b) (2 ^ 149 * 2 ^ 149)

/-- `fl32_sub`. -/
def fl32Sub (a b : U32) : U32 := rne32 (unitsOf a - unitsOf b) (2 ^ 149)

/-! ### The functions of R180 -/

/-- `tempC(raw)`: `EXACT_RNE` rounds `165 * raw / 65535 - 40` once; `F32_STEPWISE` rounds the
quotient, the product and the difference. -/
def tempC (mode : ConvRounding) (raw : U16) : U32 :=
  match mode with
  | .exactRne => rne32 (165 * (raw.toNat : Int) - 40 * 65535) 65535
  | .f32Stepwise =>
    fl32Sub (fl32Mul (fl32Div (f32OfNat raw.toNat) (f32OfNat 65535)) (f32OfNat 165)) (f32OfNat 40)

/-- `rhPct(raw)`: `100 * raw / 65535`, rounded once or after each operation. -/
def rhPct (mode : ConvRounding) (raw : U16) : U32 :=
  match mode with
  | .exactRne => rne32 (100 * (raw.toNat : Int)) 65535
  | .f32Stepwise => fl32Mul (fl32Div (f32OfNat raw.toNat) (f32OfNat 65535)) (f32OfNat 100)

end Machine
end Sys2Proof
end

