-- ==== Sys2Proof/Machine/Crc.lean ====
section
/-! DEFINITION. The CRC-8 generator (40_crc.md): the function bit for bit as R100 gives it, and the byte-wise form of R104. -/

namespace Sys2Proof
namespace Machine

/-- The working registers of R100, each 24 bits wide. -/
structure CrcRegs where
  result : BitVec 24
  poly : BitVec 24
  mask : BitVec 24
  msb : BitVec 24
deriving DecidableEq, Repr

/-- The registers before the loop (R100). -/
def crcStart (v : U16) : CrcRegs :=
  { result := v.setWidth 24 <<< 8, poly := 0x988000, mask := 0xFF8000, msb := 0x800000 }

/-- One round of the loop (R100). -/
def crcRound (r : CrcRegs) : CrcRegs :=
  { result :=
      if r.result &&& r.msb ≠ 0 then
        ((r.result ^^^ r.poly) &&& r.mask) ||| (r.result &&& ~~~r.mask)
      else r.result
    poly := r.poly >>> 1
    mask := r.mask >>> 1
    msb := r.msb >>> 1 }

/-- `while msb != 0x000080` (R100), with a bound on the rounds. -/
def crcLoop : Nat → CrcRegs → CrcRegs
  | 0, r => r
  | n + 1, r => if r.msb = 0x000080 then r else crcLoop n (crcRound r)

/-- `crc8(value)` (R100).  `msb` has one set bit of 24, so 24 bounds the rounds; the loop stops by its
own condition after 16 (`Sys2Proof.Laws.crc8_eq_rounds`). -/
def crc8 (v : U16) : Byte := (crcLoop 24 (crcStart v)).result.setWidth 8

/-- One bit of the byte-wise form (R104). -/
def crcShift (c : Byte) : Byte := if c.getLsbD 7 then (c <<< 1) ^^^ 0x31 else c <<< 1

/-- One byte of the byte-wise form, which is also the entry `T[b]` of the table of R106. -/
def crcTable (b : Byte) : Byte := Nat.iterate crcShift 8 b

/-- The byte-wise form (R104): over `v[15:8]` and then `v[7:0]`, from 0. -/
def crc8Bytewise (v : U16) : Byte :=
  crcTable (crcTable (0 ^^^ v.extractLsb' 8 8) ^^^ v.extractLsb' 0 8)

/-- One round without the mask (R102). -/
def crcRoundUnmasked (r : CrcRegs) : CrcRegs :=
  { crcRound r with result := if r.result &&& r.msb ≠ 0 then r.result ^^^ r.poly else r.result }

/-- The loop of R100 with the body of R102, for its 16 rounds. -/
def crc8Unmasked (v : U16) : Byte :=
  (Nat.iterate crcRoundUnmasked 16 (crcStart v)).result.setWidth 8

/-- `q(x) * P(x)` over GF(2), with `P(x) = x^8 + x^5 + x^4 + 1`, the coefficients `0x131` (R103): bit
`i` of a word is the coefficient of `x^i`. -/
def timesP (q : U16) : BitVec 24 :=
  (List.range 16).foldl (fun acc i => if q.getLsbD i then acc ^^^ (0x131 <<< i) else acc) 0

end Machine
end Sys2Proof
end

