-- ==== Sys2Proof/Syntax.lean ====
section
/-! DEFINITION. The syntax: one constructor of `Instr` per row of spec/opcode_table.json (seven host requests of format req24, six device command bytes of format wire8), the field view of a request word, and the reasons a word is illegal. -/

namespace Sys2Proof

/-- The instructions of the block.  The first seven are what the host requests (30_encoding.md R73),
the last six are the command bytes the block itself issues to the device (R80,
41_sequencer.md R170 to R175). -/
inductive Instr where
  /-- `BEGIN` (R130). -/
  | begin
  /-- `RESET`: device soft reset (R140). -/
  | reset
  /-- `MEASURE` (R150). -/
  | measure
  /-- `HEATER on|off` (R160). -/
  | heater (on : Bool)
  /-- `CRC8 v` (R101). -/
  | crc8 (v : U16)
  /-- `CONV_T v` (R181). -/
  | convT (v : U16)
  /-- `CONV_RH v` (R182). -/
  | convRh (v : U16)
  /-- Reset, `0x1E` (R170). -/
  | wireReset
  /-- StartConversion, `0x40` (R171). -/
  | wireStartConversion
  /-- ReadSerial, `0x0A` (R172). -/
  | wireReadSerial
  /-- ReadTemperatureHumidity, `0x00` (R173). -/
  | wireReadTh
  /-- HeaterOn, `0x04` (R174). -/
  | wireHeaterOn
  /-- HeaterOff, `0x02` (R175). -/
  | wireHeaterOff
deriving DecidableEq, Repr

/-- The fields of a request word (R71), before any check. -/
structure ReqFields where
  /-- `[23:8]`. -/
  imm16 : U16
  /-- `[7:4]`, reserved. -/
  rsv : BitVec 4
  /-- `[3]`, the heater switch. -/
  h : Bool
  /-- `[2:0]`. -/
  op : BitVec 3
deriving DecidableEq, Repr

/-- An encoded instruction: the two encoding formats live in two name spaces (R55, R80), so the same
number may be a request word and a command byte. -/
inductive Encoded where
  /-- Format `req24`: a word on the host's request port. -/
  | req24 (w : Req)
  /-- Format `wire8`: a command byte to the device. -/
  | wire8 (b : Byte)
deriving DecidableEq, Repr

/-- Why a word encodes no instruction (R75, R81). -/
inductive IllegalReason where
  /-- `OP == 0`. -/
  | opZero
  /-- `RSV != 0`. -/
  | rsvNonzero
  /-- `H == 1` and `OP != 4`. -/
  | heaterBitSet
  /-- `IMM16 != 0` and `OP` in {1, 2, 3, 4}. -/
  | immNonzero
  /-- A byte that is none of the six command bytes of R80. -/
  | unknownCommandByte
deriving DecidableEq, Repr

end Sys2Proof
end

