-- ==== Sys2Proof/WellFormed.lean ====
section
/-! DEFINITION. Well-formedness: the four checks of 30_encoding.md R75 on the fields of a request word, and the well-formedness of an instruction through its fields. -/

namespace Sys2Proof

namespace ReqFields

/-- R75: `OP == 0` is illegal. -/
def opOk (f : ReqFields) : Bool := f.op != 0

/-- R75: `RSV != 0` is illegal. -/
def rsvOk (f : ReqFields) : Bool := f.rsv == 0

/-- R75: `H == 1` is illegal unless `OP == 4`. -/
def heaterBitOk (f : ReqFields) : Bool := !f.h || f.op == 4

/-- R75: `IMM16 != 0` is illegal with `OP` in {1, 2, 3, 4}. -/
def immOk (f : ReqFields) : Bool :=
  f.imm16 == 0 || !(f.op == 1 || f.op == 2 || f.op == 3 || f.op == 4)

/-- A legal request word's fields (R74, R75). -/
def wellFormed (f : ReqFields) : Bool :=
  f.opOk && f.rsvOk && f.heaterBitOk && f.immOk

end ReqFields

/-- The request fields an instruction stands for (R71, R73); none for a device command byte. -/
def Instr.fields? : Instr → Option ReqFields
  | .begin => some { imm16 := 0, rsv := 0, h := false, op := 1 }
  | .reset => some { imm16 := 0, rsv := 0, h := false, op := 2 }
  | .measure => some { imm16 := 0, rsv := 0, h := false, op := 3 }
  | .heater on => some { imm16 := 0, rsv := 0, h := on, op := 4 }
  | .crc8 v => some { imm16 := v, rsv := 0, h := false, op := 5 }
  | .convT v => some { imm16 := v, rsv := 0, h := false, op := 6 }
  | .convRh v => some { imm16 := v, rsv := 0, h := false, op := 7 }
  | .wireReset => none
  | .wireStartConversion => none
  | .wireReadSerial => none
  | .wireReadTh => none
  | .wireHeaterOn => none
  | .wireHeaterOff => none

/-- An instruction is well-formed when the fields it stands for pass the checks of R75.  The operand
types already are the field widths, so every instruction is well-formed
(`Sys2Proof.Laws.wellFormed_all`); an ill-formed term is one of `ReqFields`. -/
def Instr.wellFormed (i : Instr) : Bool :=
  match i.fields? with
  | some f => f.wellFormed
  | none => true

end Sys2Proof
end

