-- ==== Sys2Proof/Decode.lean ====
section
/-! DEFINITION. The decoder, total on every word and rejecting by name, and the encoder, both from 30_encoding.md R71 to R75 and R80. -/

namespace Sys2Proof

/-! ### The device command bytes (R80; 93 I2: normative as the source states them) -/

/-- Reset. -/
def cmdReset : Byte := 0x1E
/-- StartConversion. -/
def cmdStartConversion : Byte := 0x40
/-- ReadSerial. -/
def cmdReadSerial : Byte := 0x0A
/-- ReadTemperatureHumidity. -/
def cmdReadTh : Byte := 0x00
/-- HeaterOn. -/
def cmdHeaterOn : Byte := 0x04
/-- HeaterOff. -/
def cmdHeaterOff : Byte := 0x02

/-! ### Fields of a request word (R71) -/

/-- The field view of a request word (R71). -/
def ReqFields.ofWord (w : Req) : ReqFields :=
  { imm16 := w.extractLsb' 8 16
    rsv := w.extractLsb' 4 4
    h := w.getLsbD 3
    op := w.extractLsb' 0 3 }

/-- The request word with the given fields (R71): `IMM16 ++ RSV ++ H ++ OP`. -/
def ReqFields.toWord (f : ReqFields) : Req :=
  f.imm16 ++ f.rsv ++ BitVec.ofBool f.h ++ f.op

/-- The instruction that fields passing every check select (R73). -/
def ReqFields.select (f : ReqFields) : Instr :=
  if f.op = 1 then .begin
  else if f.op = 2 then .reset
  else if f.op = 3 then .measure
  else if f.op = 4 then .heater f.h
  else if f.op = 5 then .crc8 f.imm16
  else if f.op = 6 then .convT f.imm16
  else .convRh f.imm16

/-! ### Decode -/

/-- Decodes a host request word: one row of R74, or illegal for a reason of R75. -/
def decodeReq (w : Req) : Except IllegalReason Instr :=
  let f := ReqFields.ofWord w
  if !f.opOk then .error .opZero
  else if !f.rsvOk then .error .rsvNonzero
  else if !f.heaterBitOk then .error .heaterBitSet
  else if !f.immOk then .error .immNonzero
  else .ok f.select

/-- Decodes a device command byte: one of the six of R80, or none of the block's (R81). -/
def decodeWire (b : Byte) : Except IllegalReason Instr :=
  if b = cmdReset then .ok .wireReset
  else if b = cmdStartConversion then .ok .wireStartConversion
  else if b = cmdReadSerial then .ok .wireReadSerial
  else if b = cmdReadTh then .ok .wireReadTh
  else if b = cmdHeaterOn then .ok .wireHeaterOn
  else if b = cmdHeaterOff then .ok .wireHeaterOff
  else .error .unknownCommandByte

/-- Decoding in both formats; total (R75: every word is one legal row or illegal). -/
def decode : Encoded → Except IllegalReason Instr
  | .req24 w => decodeReq w
  | .wire8 b => decodeWire b

/-! ### Encode -/

/-- The word of an instruction, from the tables of R74 and R80. -/
def encode : Instr → Encoded
  | .begin => .req24 0x000001
  | .reset => .req24 0x000002
  | .measure => .req24 0x000003
  | .heater on => .req24 ((0 : BitVec 20) ++ BitVec.ofBool on ++ (4 : BitVec 3))
  | .crc8 v => .req24 (v ++ (0x05 : BitVec 8))
  | .convT v => .req24 (v ++ (0x06 : BitVec 8))
  | .convRh v => .req24 (v ++ (0x07 : BitVec 8))
  | .wireReset => .wire8 cmdReset
  | .wireStartConversion => .wire8 cmdStartConversion
  | .wireReadSerial => .wire8 cmdReadSerial
  | .wireReadTh => .wire8 cmdReadTh
  | .wireHeaterOn => .wire8 cmdHeaterOn
  | .wireHeaterOff => .wire8 cmdHeaterOff

/-! ### The opcode table's words -/

/-- A device command byte of the table, where the decoder knows it (R80). -/
def isCommandByte (b : Byte) : Bool :=
  match decodeWire b with
  | .ok _ => true
  | .error _ => false

/-- The encoded instruction that a table word of `nbits` bits stands for.  A row of at most 8 bits is
a device command byte (format wire8); the table's rows CRC8, CONV_T and CONV_RH give bits 7 to 0 only,
so a byte that is no command byte is the low byte of a request word whose operand bits are 0
(log entry 9).  Nothing where the word has bits beyond its format. -/
def encodedOfTableWord (nbits w : Nat) : Option Encoded :=
  if nbits ≤ 8 && decide (w < 2 ^ 8) && isCommandByte (BitVec.ofNat 8 w) then
    some (.wire8 (BitVec.ofNat 8 w))
  else if w < 2 ^ 24 then some (.req24 (BitVec.ofNat 24 w))
  else none

/-- The instruction the decoder reads from a word of spec/opcode_table.json. -/
def decodeTableWord (nbits w : Nat) : Option Instr :=
  match encodedOfTableWord nbits w with
  | none => none
  | some e =>
    match decode e with
    | .ok i => some i
    | .error _ => none

end Sys2Proof
end

