-- ==== Sys2Proof/Machine/State.lean ====
section
/-! DEFINITION. The machine's state as plain data: the registers of 10_state.md R20, the parameters of 00_scope.md R5, the block's inputs (R33, 20_memory.md R52) and the transport conversation (R212); and the state after block reset (R36, R230). -/

namespace Sys2Proof
namespace Machine

/-- `SEQ_STATE` (R22).  The codes 5 to 7 are never held, so no value stands for them (93 I11). -/
inductive SeqState where
  /-- 0, `UNINIT`. -/
  | uninit
  /-- 1, `RESET`. -/
  | reset
  /-- 2, `READY`. -/
  | ready
  /-- 3, `CONVERTING`. -/
  | converting
  /-- 4, `DECODED`. -/
  | decoded
deriving DecidableEq, Repr

/-- A status code (30_encoding.md R76).  Code 6 is never written (R78), so no value stands for it. -/
inductive Status where
  /-- 0, `OK`. -/
  | ok
  /-- 1, `ERR_TRANSPORT`. -/
  | errTransport
  /-- 2, `ERR_INTEGRITY`. -/
  | errIntegrity
  /-- 3, `ERR_CMD_WRITE`. -/
  | errCmdWrite
  /-- 4, `ERR_STATE`. -/
  | errState
  /-- 5, `ERR_ILLEGAL`. -/
  | errIllegal
  /-- 7, `NONE`: no operation completed since block reset. -/
  | noneYet
deriving DecidableEq, Repr

/-- `phase`, the sequencer's step label (R27). -/
inductive Phase where
  /-- `IDLE`: no operation is running. -/
  | idle
  /-- `BEGIN`: the Reset command. -/
  | b1
  /-- `BEGIN`: the settle delay. -/
  | b2
  /-- `BEGIN`: the serial-number read. -/
  | b3
  /-- `BEGIN`: the serial check. -/
  | b4
  /-- `BEGIN`: to `READY`. -/
  | b5
  /-- `RESET`: the Reset command. -/
  | r1
  /-- `RESET`: the settle delay. -/
  | r2
  /-- `RESET`: back to `READY`. -/
  | r3
  /-- `MEASURE`: StartConversion. -/
  | m1
  /-- `MEASURE`: the conversion delay. -/
  | m2
  /-- `MEASURE`: the combined read. -/
  | m3
  /-- `MEASURE`: the temperature CRC. -/
  | m4
  /-- `MEASURE`: the humidity CRC. -/
  | m5
  /-- `MEASURE`: the commit. -/
  | m6
  /-- `HEATER`: the heater command. -/
  | h1
  /-- The one step of `CRC8`, `CONV_T` and `CONV_RH`. -/
  | x1
deriving DecidableEq, Repr

/-- A transport transaction (20_memory.md R50). -/
inductive Transaction where
  /-- `TpWrite(cmd)`. -/
  | write (cmd : Byte)
  /-- `TpDelay(ms)`. -/
  | delay (ms : BitVec 16)
  /-- `TpRead(cmd, n)`. -/
  | read (cmd : Byte) (n : BitVec 3)
deriving DecidableEq, Repr

/-- The bytes of a 4-byte reply, in the order received (30_encoding.md R83). -/
structure Reply4 where
  b0 : Byte
  b1 : Byte
  b2 : Byte
  b3 : Byte
deriving DecidableEq, Repr

/-- The bytes of a 6-byte reply, in the order received (R82); also the type of `RX[0..5]`. -/
structure Reply6 where
  b0 : Byte
  b1 : Byte
  b2 : Byte
  b3 : Byte
  b4 : Byte
  b5 : Byte
deriving DecidableEq, Repr

/-- A transport answer (R50): an ack for a write, `Done` for a delay, `Fail` or exactly n bytes for a
read. -/
inductive Answer where
  | ack (a : Bool)
  | done
  | fail
  | bytes4 (r : Reply4)
  | bytes6 (r : Reply6)
deriving DecidableEq, Repr

/-- One event of the transport conversation: the block issues a transaction, or the transport
answers it (R63). -/
inductive TpEvent where
  | sent (t : Transaction)
  | answered (a : Answer)
deriving DecidableEq, Repr

/-- The reasons a step can fault: none.  The block has no traps, vectors or handlers; every failure is
a status code in a next state (60_exceptions.md R200, R201), and an unanswered transaction leaves the
block waiting, not stopped (R206). -/
inductive Fault where
deriving DecidableEq, Repr

/-- The reasons a step or a meaning refuses. -/
inductive Refusal where
  /-- Raised by `exec` alone, for an instruction without a meaning.  Safe.  No arm raises it. -/
  | notModelled (mnemonic : String)
  /-- Raised by a host operation's meaning where another operation is in progress: the host has no
  move to present a request while `BUSY == 1`, and the spec says nothing of the result
  (41_sequencer.md R120, 70_reset_and_hazards.md R244, 93 I8: refuse).  Safe.  `step` never raises it
  in a state that a run from reset reaches. -/
  | requestWhileBusy
  /-- Raised by a device command byte's meaning in a step that does not send that byte: the block
  sends it only in the steps its rule names (R170 to R175, R81, 93 I6: refuse).  Safe.  `step` never
  raises it. -/
  | commandNotSentHere
  /-- Raised by `step` where `phase` and the bookkeeping registers contradict each other (`IDLE` with
  `BUSY == 1`, or `X1` with a `CUR_OP` that has no such step): the spec gives no step there.  Safe.  No
  run from reset reaches such a state. -/
  | noSuchStep
deriving DecidableEq, Repr

/-- The state: the registers of the block, its parameters, its inputs still to come, and the record
of its transport conversation. -/
structure State where
  /-- `SEQ_STATE` (R22). -/
  seqState : SeqState
  /-- `BUSY` (R25). -/
  busy : Bool
  /-- `CUR_OP` (R26). -/
  curOp : BitVec 3
  /-- `CUR_ARG`: `H ++ IMM16` (R26, R72). -/
  curArg : BitVec 17
  /-- `phase` (R27). -/
  phase : Phase
  /-- `LAST_STATUS` (R24). -/
  lastStatus : Status
  /-- `MEAS_VALID` (R28). -/
  measValid : Bool
  /-- `MEAS_T`, a binary32 pattern (R28). -/
  measT : U32
  /-- `MEAS_RH`, a binary32 pattern (R28). -/
  measRh : U32
  /-- `MEAS_TS` (R28). -/
  measTs : U32
  /-- `RESULT` (R30). -/
  result : U32
  /-- `RX[0..5]` (R33). -/
  rx : Reply6
  /-- `SERIAL` (R33). -/
  serial : U32
  /-- The parameters (R5); no step writes them. -/
  cfg : Config
  /-- INPUT: the request words the host will present, the next one first.  The head is presented
  (`REQ_VALID == 1`) while the block is idle (R120). -/
  reqs : List Req
  /-- INPUT: the acks the transport will answer to the coming `TpWrite`s (R52). -/
  acks : List Bool
  /-- INPUT: how many of the coming `TpDelay`s the transport will answer (R53). -/
  dones : Nat
  /-- INPUT: the answers to the coming 4-byte `TpRead`s; `none` is `Fail` (R52). -/
  replies4 : List (Option Reply4)
  /-- INPUT: the answers to the coming 6-byte `TpRead`s; `none` is `Fail` (R52). -/
  replies6 : List (Option Reply6)
  /-- INPUT: the values of `NOW_MS` at the coming commits (R33). -/
  nowMs : List U32
  /-- OUTPUT: the transport conversation since block reset, newest event first (R63, R212). -/
  tpLog : List TpEvent
  /-- MODEL'S OWN: how many free values have been drawn (log entries 4, 5). -/
  draws : Nat
deriving DecidableEq, Repr

/-- The state right after block reset (R36, R230): the spec's values; for the four registers R36 calls
unspecified, 0 (log entry 1); the default parameters of R5; no input listed, nothing issued. -/
def State.reset : State :=
  { seqState := .uninit
    busy := false
    curOp := 0
    curArg := 0
    phase := .idle
    lastStatus := .noneYet
    measValid := false
    measT := 0
    measRh := 0
    measTs := 0
    result := 0
    rx := { b0 := 0, b1 := 0, b2 := 0, b3 := 0, b4 := 0, b5 := 0 }
    serial := 0
    cfg := Config.default
    reqs := []
    acks := []
    dones := 0
    replies4 := []
    replies6 := []
    nowMs := []
    tpLog := []
    draws := 0 }

end Machine
end Sys2Proof
end

