-- ==== Sys2Proof/Machine/Operands.lean ====
section
/-! DEFINITION. Operand assembly: `CUR_ARG` (30_encoding.md R72), byte order (R7, 20_memory.md R56) and the fields of the two replies (R82, R83). -/

namespace Sys2Proof
namespace Machine

/-- `be16(b0, b1)`: the first byte received is the most significant (R7, R56). -/
def be16 (b0 b1 : Byte) : U16 := b0 ++ b1

/-- `be32(b0, b1, b2, b3)` (R7, R56). -/
def be32 (b0 b1 b2 b3 : Byte) : U32 := b0 ++ b1 ++ b2 ++ b3

/-- `CUR_ARG` as acceptance writes it: `H ++ IMM16` (R72). -/
def packArg (h : Bool) (imm : U16) : BitVec 17 := BitVec.ofBool h ++ imm

/-- `CUR_ARG[15:0]`, the operand of `CRC8`, `CONV_T` and `CONV_RH` (R101, R181, R182). -/
def argImm (s : State) : U16 := s.curArg.extractLsb' 0 16

/-- `CUR_ARG[16]`, the heater switch (R160). -/
def argOn (s : State) : Bool := s.curArg.getLsbD 16

/-- `rawTemperature` of a combined reply (R82). -/
def Reply6.rawT (r : Reply6) : U16 := be16 r.b0 r.b1

/-- `tempCrc` (R82). -/
def Reply6.tempCrc (r : Reply6) : Byte := r.b2

/-- `rawHumidity` (R82). -/
def Reply6.rawRh (r : Reply6) : U16 := be16 r.b3 r.b4

/-- `humCrc` (R82). -/
def Reply6.humCrc (r : Reply6) : Byte := r.b5

/-- The serial number of a 4-byte reply: `be32`, no CRC (R83). -/
def Reply4.serialOf (r : Reply4) : U32 := be32 r.b0 r.b1 r.b2 r.b3

/-- `RX[0..3] <- r.bytes` (R130 step B3); `RX[4]` and `RX[5]` stay. -/
def Reply6.withFirstFour (rx : Reply6) (r : Reply4) : Reply6 :=
  { rx with b0 := r.b0, b1 := r.b1, b2 := r.b2, b3 := r.b3 }

/-- The serial number held in `RX[0..3]` (R130 step B4). -/
def Reply6.serialOfRx (rx : Reply6) : U32 := be32 rx.b0 rx.b1 rx.b2 rx.b3

/-- The 7-bit bus address `DEV_ADDR` stands for (R5, R62).  The platform hands it to the transport; no
step of the block reads it (R51). -/
def transportAddress (s : State) : BitVec 7 :=
  match s.cfg.devAddr with
  | .primary => 0x40
  | .alternate => 0x41

end Machine
end Sys2Proof
end

