-- ==== Sys2Proof/Machine/Ops.lean ====
section
/-! DEFINITION. The shared operations: accepting, rejecting and ending an operation (41_sequencer.md R120 to R123), failing (60_exceptions.md R201: the block's only form of an exception), the transport primitives (20_memory.md R50 to R54), the `NOW_MS` input and block reset (70_reset_and_hazards.md R230). -/

namespace Sys2Proof
namespace Machine

/-- What one instruction or one step answers. -/
abbrev Out := Host.Outcome State Fault Refusal

/-! ### Ending an operation -/

/-- `end s` of an operation in progress (R122).  `CUR_OP` and `CUR_ARG` are unspecified from here on
(R26), so they become free values (log entry 5). -/
def endOp (st : Status) (s : State) : State :=
  { s with
    lastStatus := st
    busy := false
    phase := .idle
    curOp := Config.freeCurOp s.draws
    curArg := Config.freeCurArg s.draws
    draws := s.draws + 1 }

/-- `fail(st, q)`: `SEQ_STATE <- q; end st` (R201). -/
def failOp (st : Status) (q : SeqState) (s : State) : State :=
  endOp st { s with seqState := q }

/-- `end st` in the acceptance step (R121, R123): a rejected request writes the status and nothing
else; `BUSY` stays 0 and `phase` stays `IDLE`. -/
def reject (st : Status) (s : State) : State :=
  { s with lastStatus := st, busy := false, phase := .idle }

/-! ### Accepting a request -/

/-- `valid_in(op, SEQ_STATE)` (R123; R101, R181 and R182: the pure operations in every state). -/
def validIn (op : BitVec 3) (q : SeqState) : Bool :=
  if op = 1 then q == .uninit || q == .ready
  else if op = 2 || op = 3 || op = 4 then q == .ready
  else true

/-- `CUR_OP <- op; CUR_ARG <- arg; BUSY <- 1; phase <- first step of op` (R120). -/
def accept (op : BitVec 3) (arg : BitVec 17) (first : Phase) (s : State) : State :=
  { s with curOp := op, curArg := arg, busy := true, phase := first }

/-- The acceptance step of a legal request (R120, R123).  Where the block is not idle the request is
not taken: the host has no such move (R244). -/
def request (op : BitVec 3) (arg : BitVec 17) (first : Phase) (s : State) : Out :=
  if s.phase = .idle ∧ s.busy = false then
    if validIn op s.seqState then .next (accept op arg first s) else .next (reject .errState s)
  else .refused .requestWhileBusy

/-! ### The transport primitives -/

/-- The transaction issued and not yet answered, if any: at most one (R63). -/
def outstanding (s : State) : Option Transaction :=
  match s.tpLog with
  | .sent t :: _ => some t
  | _ => none

/-- Issues a transaction; a step that is already waiting for its answer does not issue it again
(R54, R60). -/
def issue (t : Transaction) (s : State) : State :=
  if outstanding s = some t then s else { s with tpLog := .sent t :: s.tpLog }

/-- Records the transport's answer. -/
def recordAnswer (a : Answer) (s : State) : State :=
  { s with tpLog := .answered a :: s.tpLog }

/-- `TpWrite(cmd)`: continues with `onAck` or `onNack`; waits where no answer comes (R50, R54). -/
def tpWrite (cmd : Byte) (onAck onNack : State → State) (s : State) : State :=
  let w := issue (.write cmd) s
  match w.acks with
  | [] => w
  | a :: rest =>
    let u := recordAnswer (.ack a) { w with acks := rest }
    if a then onAck u else onNack u

/-- `TpDelay(ms)`: continues once the transport answers `Done` (R53). -/
def tpDelay (ms : BitVec 16) (onDone : State → State) (s : State) : State :=
  let w := issue (.delay ms) s
  match w.dones with
  | 0 => w
  | n + 1 => onDone (recordAnswer .done { w with dones := n })

/-- `TpRead(cmd, 4)`: `Fail`, or exactly 4 bytes (R50, R52). -/
def tpRead4 (cmd : Byte) (onFail : State → State) (onBytes : Reply4 → State → State) (s : State) :
    State :=
  let w := issue (.read cmd 4) s
  match w.replies4 with
  | [] => w
  | none :: rest => onFail (recordAnswer .fail { w with replies4 := rest })
  | some r :: rest => onBytes r (recordAnswer (.bytes4 r) { w with replies4 := rest })

/-- `TpRead(cmd, 6)`: `Fail`, or exactly 6 bytes (R50, R52). -/
def tpRead6 (cmd : Byte) (onFail : State → State) (onBytes : Reply6 → State → State) (s : State) :
    State :=
  let w := issue (.read cmd 6) s
  match w.replies6 with
  | [] => w
  | none :: rest => onFail (recordAnswer .fail { w with replies6 := rest })
  | some r :: rest => onBytes r (recordAnswer (.bytes6 r) { w with replies6 := rest })

/-! ### The timestamp input -/

/-- `NOW_MS` as sampled now (R33): the next listed sample, else a free value (log entry 4). -/
def nowValue (s : State) : U32 :=
  match s.nowMs with
  | t :: _ => t
  | [] => Config.freeNowMs s.draws

/-- The state once `NOW_MS` has been sampled. -/
def sampledNow (s : State) : State :=
  match s.nowMs with
  | _ :: rest => { s with nowMs := rest }
  | [] => { s with draws := s.draws + 1 }

/-! ### Block reset -/

/-- Block reset (R230): every register of the block at its reset value, no transport transaction.  The
parameters and the inputs still to come are not the block's registers and stay.  It is an act of the
outside world: no step performs it (log entry 8).

DESIGN CHOICE (log entry 8): the spec does not say what becomes of a transaction that is unanswered at
block reset (R230 is silent, R63 item 2 wants its answer before the next).  The conversation starts
anew, so that transaction is forgotten, the next operation may issue at once, and an answer listed for
it answers a later transaction of its kind. -/
def blockReset (s : State) : State :=
  { State.reset with
    cfg := s.cfg
    reqs := s.reqs
    acks := s.acks
    dones := s.dones
    replies4 := s.replies4
    replies6 := s.replies6
    nowMs := s.nowMs
    draws := s.draws }

end Machine
end Sys2Proof
end

