-- ==== Sys2Proof/Machine/Pure.lean ====
section
/-! DEFINITION. The combinational operations `CRC8` (40_crc.md R101), `CONV_T` and `CONV_RH` (42_conversion.md R181, R182): the step X1 of each, and their meanings. -/

namespace Sys2Proof
namespace Machine

/-- X1 of `CRC8`: `RESULT <- zext_32(crc8(CUR_ARG[15:0])); end OK` (R101). -/
def crc8X1 (s : State) : State :=
  endOp .ok { s with result := (crc8 (argImm s)).setWidth 32 }

/-- X1 of `CONV_T`: `RESULT <- tempC(CUR_ARG[15:0]); end OK` (R181). -/
def convTX1 (s : State) : State :=
  endOp .ok { s with result := tempC s.cfg.convRounding (argImm s) }

/-- X1 of `CONV_RH`: `RESULT <- rhPct(CUR_ARG[15:0]); end OK` (R182). -/
def convRhX1 (s : State) : State :=
  endOp .ok { s with result := rhPct s.cfg.convRounding (argImm s) }

/-- The meaning of `CRC8 v`: the acceptance step, and X1 of the operation with that operand. -/
def execCrc8 (v : U16) (s : State) : Out :=
  match s.phase with
  | .x1 =>
    if s.curOp = 5 ∧ argImm s = v then .next (crc8X1 s) else .refused .requestWhileBusy
  | _ => request 5 (packArg false v) .x1 s

/-- The meaning of `CONV_T v`. -/
def execConvT (v : U16) (s : State) : Out :=
  match s.phase with
  | .x1 =>
    if s.curOp = 6 ∧ argImm s = v then .next (convTX1 s) else .refused .requestWhileBusy
  | _ => request 6 (packArg false v) .x1 s

/-- The meaning of `CONV_RH v`. -/
def execConvRh (v : U16) (s : State) : Out :=
  match s.phase with
  | .x1 =>
    if s.curOp = 7 ∧ argImm s = v then .next (convRhX1 s) else .refused .requestWhileBusy
  | _ => request 7 (packArg false v) .x1 s

end Machine
end Sys2Proof
end

