-- ==== Sys2Proof/Machine/Sequencer.lean ====
section
/-! DEFINITION. The protocol sequencer (41_sequencer.md): the steps of `BEGIN`, `RESET`, `MEASURE` and `HEATER`, one definition per step, and the meanings of the four operations. -/

namespace Sys2Proof
namespace Machine

/-! ### BEGIN (R130) -/

/-- B1: `SEQ_STATE <- RESET`, the Reset command; a nack fails to `UNINIT`. -/
def beginB1 (s : State) : State :=
  tpWrite cmdReset
    (fun u => { u with seqState := .reset, phase := .b2 })
    (failOp .errTransport .uninit) s

/-- B2: the settle delay. -/
def beginB2 (s : State) : State :=
  tpDelay Config.tResetMs (fun u => { u with phase := .b3 }) s

/-- B3: ReadSerial into `RX[0..3]`; `Fail` fails to `UNINIT`. -/
def beginB3 (s : State) : State :=
  tpRead4 cmdReadSerial
    (failOp .errTransport .uninit)
    (fun r u => { u with rx := u.rx.withFirstFour r, phase := .b4 }) s

/-- B4: `SERIAL`, and the degenerate serial where the parameter says so. -/
def beginB4 (s : State) : State :=
  let u := { s with serial := s.rx.serialOfRx }
  if u.cfg.serialZeroIsFailure ∧ u.serial = 0 then failOp .errTransport .uninit u
  else { u with phase := .b5 }

/-- B5: `SEQ_STATE <- READY; end OK`. -/
def beginB5 (s : State) : State := endOp .ok { s with seqState := .ready }

/-- The meaning of `BEGIN`: the acceptance step, and each of its steps where that step is due. -/
def execBegin (s : State) : Out :=
  match s.phase with
  | .b1 => .next (beginB1 s)
  | .b2 => .next (beginB2 s)
  | .b3 => .next (beginB3 s)
  | .b4 => .next (beginB4 s)
  | .b5 => .next (beginB5 s)
  | _ => request 1 (packArg false 0) .b1 s

/-! ### RESET (R140) -/

/-- R1: `SEQ_STATE <- RESET`, the Reset command; a nack fails, and the block stays `READY`. -/
def resetR1 (s : State) : State :=
  tpWrite cmdReset
    (fun u => { u with seqState := .reset, phase := .r2 })
    (failOp .errCmdWrite .ready) s

/-- R2: the settle delay. -/
def resetR2 (s : State) : State :=
  tpDelay Config.tResetMs (fun u => { u with phase := .r3 }) s

/-- R3: `SEQ_STATE <- READY; end OK`. -/
def resetR3 (s : State) : State := endOp .ok { s with seqState := .ready }

/-- The meaning of `RESET`. -/
def execReset (s : State) : Out :=
  match s.phase with
  | .r1 => .next (resetR1 s)
  | .r2 => .next (resetR2 s)
  | .r3 => .next (resetR3 s)
  | _ => request 2 (packArg false 0) .r1 s

/-! ### MEASURE (R150) -/

/-- M1: `SEQ_STATE <- CONVERTING`, StartConversion; a nack fails, and the block stays `READY`. -/
def measureM1 (s : State) : State :=
  tpWrite cmdStartConversion
    (fun u => { u with seqState := .converting, phase := .m2 })
    (failOp .errCmdWrite .ready) s

/-- M2: the conversion delay. -/
def measureM2 (s : State) : State :=
  tpDelay Config.tConvMs (fun u => { u with phase := .m3 }) s

/-- M3: ReadTemperatureHumidity into `RX[0..5]`; `Fail` fails to `READY`. -/
def measureM3 (s : State) : State :=
  tpRead6 cmdReadTh
    (failOp .errTransport .ready)
    (fun r u => { u with rx := r, phase := .m4 }) s

/-- M4: `SEQ_STATE <- DECODED`, the temperature CRC (R108: equality is acceptance). -/
def measureM4 (s : State) : State :=
  if crc8 s.rx.rawT = s.rx.tempCrc then { s with seqState := .decoded, phase := .m5 }
  else failOp .errIntegrity .ready s

/-- M5: the humidity CRC. -/
def measureM5 (s : State) : State :=
  if crc8 s.rx.rawRh = s.rx.humCrc then { s with phase := .m6 }
  else failOp .errIntegrity .ready s

/-- M6: the commit, all four Measurement registers in this one step (R28, R61). -/
def measureM6 (s : State) : State :=
  endOp .ok
    { sampledNow s with
      measT := tempC s.cfg.convRounding s.rx.rawT
      measRh := rhPct s.cfg.convRounding s.rx.rawRh
      measTs := nowValue s
      measValid := true
      seqState := .ready }

/-- The meaning of `MEASURE`. -/
def execMeasure (s : State) : Out :=
  match s.phase with
  | .m1 => .next (measureM1 s)
  | .m2 => .next (measureM2 s)
  | .m3 => .next (measureM3 s)
  | .m4 => .next (measureM4 s)
  | .m5 => .next (measureM5 s)
  | .m6 => .next (measureM6 s)
  | _ => request 3 (packArg false 0) .m1 s

/-! ### HEATER (R160) -/

/-- The heater command byte for a switch position (R174, R175). -/
def heaterCommand (on : Bool) : Byte := if on then cmdHeaterOn else cmdHeaterOff

/-- H1: the heater command; the ack alone decides the status, and nothing else is written. -/
def heaterH1 (s : State) : State :=
  tpWrite (heaterCommand (argOn s)) (endOp .ok) (endOp .errCmdWrite) s

/-- The meaning of `HEATER on|off`: the acceptance step, and H1 of a heater operation whose `CUR_ARG`
holds the same switch position. -/
def execHeater (on : Bool) (s : State) : Out :=
  match s.phase with
  | .h1 => if argOn s = on then .next (heaterH1 s) else .refused .requestWhileBusy
  | _ => request 4 (packArg on 0) .h1 s

end Machine
end Sys2Proof
end

