-- ==== Sys2Proof/Machine/Wire.lean ====
section
/-! DEFINITION. The device command bytes as instructions the block issues (41_sequencer.md R170 to R175): each is the step of the operation that sends it, and is sent in no other step. -/

namespace Sys2Proof
namespace Machine

/-- Reset `0x1E`: sent only in B1 and R1 (R170). -/
def execWireReset (s : State) : Out :=
  match s.phase with
  | .b1 => .next (beginB1 s)
  | .r1 => .next (resetR1 s)
  | _ => .refused .commandNotSentHere

/-- StartConversion `0x40`: sent only in M1 (R171). -/
def execWireStartConversion (s : State) : Out :=
  match s.phase with
  | .m1 => .next (measureM1 s)
  | _ => .refused .commandNotSentHere

/-- ReadSerial `0x0A`: sent only in B3 (R172). -/
def execWireReadSerial (s : State) : Out :=
  match s.phase with
  | .b3 => .next (beginB3 s)
  | _ => .refused .commandNotSentHere

/-- ReadTemperatureHumidity `0x00`: sent only in M3 (R173). -/
def execWireReadTh (s : State) : Out :=
  match s.phase with
  | .m3 => .next (measureM3 s)
  | _ => .refused .commandNotSentHere

/-- HeaterOn `0x04`: sent only in H1 with `on == 1` (R174). -/
def execWireHeaterOn (s : State) : Out :=
  match s.phase with
  | .h1 => if argOn s = true then .next (heaterH1 s) else .refused .commandNotSentHere
  | _ => .refused .commandNotSentHere

/-- HeaterOff `0x02`: sent only in H1 with `on == 0` (R175). -/
def execWireHeaterOff (s : State) : Out :=
  match s.phase with
  | .h1 => if argOn s = false then .next (heaterH1 s) else .refused .commandNotSentHere
  | _ => .refused .commandNotSentHere

end Machine
end Sys2Proof
end

