-- ==== Sys2Proof/Machine/Dispatch.lean ====
section
/-! DEFINITION. The dispatch: one arm per constructor of Instr, each one direct call of its meaning. -/

namespace Sys2Proof
namespace Machine

def exec (i : Instr) (s : State) : Host.Outcome State Fault Refusal :=
  match i with
  | .begin => Sys2Proof.Machine.execBegin s
  | .reset => Sys2Proof.Machine.execReset s
  | .measure => Sys2Proof.Machine.execMeasure s
  | .heater on => Sys2Proof.Machine.execHeater on s
  | .crc8 v => Sys2Proof.Machine.execCrc8 v s
  | .convT v => Sys2Proof.Machine.execConvT v s
  | .convRh v => Sys2Proof.Machine.execConvRh v s
  | .wireReset => Sys2Proof.Machine.execWireReset s
  | .wireStartConversion => Sys2Proof.Machine.execWireStartConversion s
  | .wireReadSerial => Sys2Proof.Machine.execWireReadSerial s
  | .wireReadTh => Sys2Proof.Machine.execWireReadTh s
  | .wireHeaterOn => Sys2Proof.Machine.execWireHeaterOn s
  | .wireHeaterOff => Sys2Proof.Machine.execWireHeaterOff s

end Machine
end Sys2Proof
end

