-- ==== Sys2Proof/Machine/Fetch.lean ====
section
/-! DEFINITION. What the next step runs: the request the host presents while the block is idle (20_memory.md R65, 41_sequencer.md R120), else the step that `phase` names (10_state.md R27, R35); and how a table word is placed so that the next step runs it. -/

namespace Sys2Proof
namespace Machine

/-- What the next step is. -/
inductive Fetched where
  /-- Idle, and no request is presented. -/
  | nothing
  /-- Idle, and the host presents this word (R120). -/
  | request (w : Req)
  /-- An operation is in progress, and its next step is one of this instruction. -/
  | running (i : Instr)
  /-- The bookkeeping registers contradict each other; the spec gives no step. -/
  | noStep
deriving DecidableEq, Repr

/-- The instruction whose step X1 is due, from `CUR_OP` and `CUR_ARG` (R27, R35). -/
def fetchX1 (s : State) : Fetched :=
  if s.curOp = 5 then .running (.crc8 (argImm s))
  else if s.curOp = 6 then .running (.convT (argImm s))
  else if s.curOp = 7 then .running (.convRh (argImm s))
  else .noStep

/-- What the next step runs.  A step that sends a device command byte is a step of that byte's
instruction (R170 to R175); the delays and the internal steps are steps of their operation. -/
def fetch (s : State) : Fetched :=
  match s.phase with
  | .idle =>
    if s.busy then .noStep
    else
      match s.reqs with
      | [] => .nothing
      | w :: _ => .request w
  | .b1 => .running .wireReset
  | .b2 => .running .begin
  | .b3 => .running .wireReadSerial
  | .b4 => .running .begin
  | .b5 => .running .begin
  | .r1 => .running .wireReset
  | .r2 => .running .reset
  | .r3 => .running .reset
  | .m1 => .running .wireStartConversion
  | .m2 => .running .measure
  | .m3 => .running .wireReadTh
  | .m4 => .running .measure
  | .m5 => .running .measure
  | .m6 => .running .measure
  | .h1 => .running (if argOn s then .wireHeaterOn else .wireHeaterOff)
  | .x1 => fetchX1 s

/-- The request port once the presented word has been taken (R120: one request per acceptance
step). -/
def takeRequest (s : State) : State := { s with reqs := s.reqs.tail }

/-- The transaction that the step due now issues, if it issues one (R130, R140, R150, R160). -/
def stepTransaction (s : State) : Option Transaction :=
  match s.phase with
  | .b1 => some (.write 0x1E)
  | .r1 => some (.write 0x1E)
  | .m1 => some (.write 0x40)
  | .h1 => some (.write (if argOn s then 0x04 else 0x02))
  | .b2 => some (.delay 15)
  | .r2 => some (.delay 15)
  | .m2 => some (.delay 20)
  | .b3 => some (.read 0x0A 4)
  | .m3 => some (.read 0x00 6)
  | _ => none

/-! ### Placing an instruction -/

/-- The block idle with `w` presented next. -/
def placeRequest (w : Req) (s : State) : State :=
  { s with busy := false, phase := .idle, reqs := w :: s.reqs }

/-- The block in the step of an operation in progress, its bookkeeping as that operation holds it. -/
def placeStep (op : BitVec 3) (arg : BitVec 17) (p : Phase) (q : SeqState) (s : State) : State :=
  { s with curOp := op, curArg := arg, busy := true, phase := p, seqState := q }

/-- The block about to send the command byte `b`: `BEGIN` in B1 or B3, `MEASURE` in M1 or M3, `HEATER`
in H1 (R170 to R175).  A byte the block never sends changes nothing. -/
def placeCommand (b : Byte) (s : State) : State :=
  if b = cmdReset then placeStep 1 (packArg false 0) .b1 .uninit s
  else if b = cmdReadSerial then placeStep 1 (packArg false 0) .b3 .reset s
  else if b = cmdStartConversion then placeStep 3 (packArg false 0) .m1 .ready s
  else if b = cmdReadTh then placeStep 3 (packArg false 0) .m3 .converting s
  else if b = cmdHeaterOn then placeStep 4 (packArg true 0) .h1 .ready s
  else if b = cmdHeaterOff then placeStep 4 (packArg false 0) .h1 .ready s
  else s

/-- The state in which the next step runs an encoded instruction. -/
def place (e : Encoded) (s : State) : State :=
  match e with
  | .req24 w => placeRequest w s
  | .wire8 b => placeCommand b s

end Machine
end Sys2Proof
end

