-- ==== Sys2Proof/Machine/Step.lean ====
section
/-! DEFINITION. One step of the block, and the placing of a table word as the next instruction. -/

namespace Sys2Proof
namespace Machine

/-- One step (R9, R27).  Idle without a request, nothing changes.  Idle with a request, this is the
acceptance step of R120: an illegal word is rejected before anything else is looked at (R121, R202), a
legal one is the instruction it decodes to.  With an operation in progress, this is the step that
`phase` names. -/
def step (s : State) : Host.Outcome State Fault Refusal :=
  match fetch s with
  | .nothing => .next s
  | .request w =>
    match decodeReq w with
    | .ok i => exec i (takeRequest s)
    | .error _ => .next (reject .errIllegal (takeRequest s))
  | .running i => exec i s
  | .noStep => .refused .noSuchStep

/-- `s` with a table word placed as the next instruction: a request word as the next request of an
idle block, a command byte by the step that sends it (log entry 9). -/
def State.withFetchWord (s : State) (nbits w : Nat) : State :=
  match encodedOfTableWord nbits w with
  | some e => place e s
  | none => s

end Machine
end Sys2Proof
end

