-- ==== Sys2Proof/Machine/Flags.lean ====
section
/-! DEFINITION. The block has no condition codes (10_state.md R34); its status bits `BUSY` and `MEAS_VALID`, the codes of R22 and R76, the `STATUS` word and the host's register read port (R31). -/

namespace Sys2Proof
namespace Machine

/-- The code of `SEQ_STATE` (R22). -/
def SeqState.code : SeqState → BitVec 3
  | .uninit => 0
  | .reset => 1
  | .ready => 2
  | .converting => 3
  | .decoded => 4

/-- The code of a status (R76). -/
def Status.code : Status → BitVec 3
  | .ok => 0
  | .errTransport => 1
  | .errIntegrity => 2
  | .errCmdWrite => 3
  | .errState => 4
  | .errIllegal => 5
  | .noneYet => 7

/-- The `STATUS` word (R31): bits 31 to 9 are 0, then `MEAS_VALID`, `BUSY`, `SEQ_STATE`, a 0 bit and
`LAST_STATUS`. -/
def statusWord (s : State) : U32 :=
  (0 : BitVec 23) ++ BitVec.ofBool s.measValid ++ BitVec.ofBool s.busy ++ s.seqState.code
    ++ (0 : BitVec 1) ++ s.lastStatus.code

/-- The register read port (R31): `RD_DATA` for an index `RD_IDX`.  It reads the state and changes
nothing. -/
def hostRead (idx : BitVec 3) (s : State) : U32 :=
  if idx = 0 then statusWord s
  else if idx = 1 then s.measT
  else if idx = 2 then s.measRh
  else if idx = 3 then s.measTs
  else if idx = 4 then s.result
  else 0

end Machine
end Sys2Proof
end

