-- ==== Sys2Proof/Machine/Driver.lean ====
section
/-! DEFINITION. The host as an agent (00_scope.md R11): the acts of the assembler notation of 30_encoding.md R84, its pseudo-instructions, and how one act meets the block. -/

namespace Sys2Proof
namespace Machine

/-- One line of a host program (R84). -/
inductive HostAct where
  /-- Presents a request word once `BUSY == 0` and no earlier word is held, and holds it until the block
  takes it (R120, R244). -/
  | present (w : Req)
  /-- `wait`: until `BUSY == 0` and the presented word has been taken. -/
  | wait
  /-- One step of the block passes before the host's next move.  R84 gives its notation no timing, so
  this act is the model's own (DESIGN CHOICE, log entry 12): a host program with other timing is the
  same program with more of these. -/
  | pass
  /-- `rd IDX`. -/
  | rd (idx : BitVec 3)
  /-- `if STATUS[2:0] == OK then rd IDX`. -/
  | rdIfOk (idx : BitVec 3)
deriving DecidableEq, Repr

/-- The pseudo-instructions of R84. -/
inductive Pseudo where
  | heaterOn
  | heaterOff
  | readTemp
  | readRh
  | readBoth
deriving DecidableEq, Repr

/-- The request word of an instruction the host may request. -/
def requestWord (i : Instr) : Option Req :=
  match encode i with
  | .req24 w => some w
  | .wire8 _ => none

/-- The act of presenting an instruction: none for a device command byte, which the host has no way to
send (R242). -/
def HostAct.ofInstr (i : Instr) : List HostAct :=
  match requestWord i with
  | some w => [.present w]
  | none => []

/-- The expansions of R84. -/
def Pseudo.expand : Pseudo → List HostAct
  | .heaterOn => HostAct.ofInstr (.heater true)
  | .heaterOff => HostAct.ofInstr (.heater false)
  | .readTemp => HostAct.ofInstr .measure ++ [.wait, .rd 0, .rdIfOk 1]
  | .readRh => HostAct.ofInstr .measure ++ [.wait, .rd 0, .rdIfOk 2]
  | .readBoth => HostAct.ofInstr .measure ++ [.wait, .rd 0, .rdIfOk 1, .rdIfOk 2, .rdIfOk 3]

/-- The host and the block together: the acts still to come, the values read (newest first), the
block. -/
structure Hosted where
  acts : List HostAct
  reads : List U32
  block : State
deriving DecidableEq, Repr

/-- `STATUS[2:0] == OK`. -/
def statusReadsOk (s : State) : Bool := (hostRead 0 s).extractLsb' 0 3 == 0

/-- The host may present the next request, and `wait` is over: `BUSY == 0`, and the presented word has
been taken (R84, R120). -/
abbrev hostMayPresent (s : State) : Prop := s.busy = false ∧ s.reqs = []

/-- One step of the block, after which the host has `acts` still to do. -/
def letBlockStep (acts : List HostAct) (h : Hosted) : Host.Outcome Hosted Fault Refusal :=
  match step h.block with
  | .next t => .next { h with acts := acts, block := t }
  | .fault r => .fault r
  | .refused r => .refused r

/-- One move of the host, or one step of the block.  A read sees the state after the last completed
step and changes nothing (R31, R63, R203).

DESIGN CHOICE (log entry 12): the spec gives a host program no timing (R84).  The block steps where the
host lets a step pass (`pass`), where it waits (`wait`), and where it holds a request that it cannot
present yet; two acts with none of these between them meet one state of the block. -/
def hostedStep (h : Hosted) : Host.Outcome Hosted Fault Refusal :=
  match h.acts with
  | [] => .next h
  | .present w :: rest =>
    if hostMayPresent h.block then
      .next { h with acts := rest, block := { h.block with reqs := [w] } }
    else letBlockStep h.acts h
  | .wait :: rest =>
    if hostMayPresent h.block then .next { h with acts := rest }
    else letBlockStep h.acts h
  | .pass :: rest => letBlockStep rest h
  | .rd idx :: rest => .next { h with acts := rest, reads := hostRead idx h.block :: h.reads }
  | .rdIfOk idx :: rest =>
    if statusReadsOk h.block then
      .next { h with acts := rest, reads := hostRead idx h.block :: h.reads }
    else .next { h with acts := rest }

end Machine
end Sys2Proof
end

