-- ==== Sys2Proof/Safety.lean ====
section
/-! DEFINITION. What a safe run is, in the terms the statements use: the bookkeeping invariant of the sequencer (10_state.md R22, R25, R27), the order of the transport conversation (20_memory.md R63, 41_sequencer.md R170 to R175, 70_reset_and_hazards.md R240, R242) and the origin of a visible Measurement (R28, R29, R152). -/

namespace Sys2Proof
namespace Machine

/-! ### The sequencer's bookkeeping -/

/-- The values `SEQ_STATE` may hold when a step is due (R22, R23): the step's own writes come with the
step (R247, log entry 7). -/
def seqFitsPhase (p : Phase) (q : SeqState) : Bool :=
  match p with
  | .idle => q == .uninit || q == .ready
  | .b1 => q == .uninit || q == .ready
  | .b2 => q == .reset
  | .b3 => q == .reset
  | .b4 => q == .reset
  | .b5 => q == .reset
  | .r1 => q == .ready
  | .r2 => q == .reset
  | .r3 => q == .reset
  | .m1 => q == .ready
  | .m2 => q == .converting
  | .m3 => q == .converting
  | .m4 => q == .converting
  | .m5 => q == .decoded
  | .m6 => q == .decoded
  | .h1 => q == .ready
  | .x1 => q == .uninit || q == .ready

/-- The values `CUR_OP` may hold when a step is due (R26, R120). -/
def opFitsPhase (p : Phase) (op : BitVec 3) : Bool :=
  match p with
  | .idle => true
  | .b1 => op == 1
  | .b2 => op == 1
  | .b3 => op == 1
  | .b4 => op == 1
  | .b5 => op == 1
  | .r1 => op == 2
  | .r2 => op == 2
  | .r3 => op == 2
  | .m1 => op == 3
  | .m2 => op == 3
  | .m3 => op == 3
  | .m4 => op == 3
  | .m5 => op == 3
  | .m6 => op == 3
  | .h1 => op == 4
  | .x1 => op == 5 || op == 6 || op == 7

/-- The bookkeeping registers agree: `BUSY` is 1 exactly while an operation is in progress, and
`SEQ_STATE` and `CUR_OP` fit the step that is due. -/
def SeqInv (s : State) : Prop :=
  s.busy = decide (s.phase ≠ .idle) ∧ seqFitsPhase s.phase s.seqState = true ∧
    opFitsPhase s.phase s.curOp = true

/-! ### The order of the transport conversation -/

/-- A new command byte may be written: no transaction is outstanding, and the last one is not an
acknowledged Reset or StartConversion, which a delay must follow (R63, R170, R171). -/
def mayWrite (history : List TpEvent) : Bool :=
  match history with
  | .sent _ :: _ => false
  | .answered (.ack true) :: .sent (.write c) :: _ => c != 0x1E && c != 0x40
  | _ => true

/-- The newest events are an acknowledged write of `c`. -/
def ackedWrite (c : Byte) (history : List TpEvent) : Bool :=
  match history with
  | .answered (.ack true) :: .sent (.write c') :: _ => c' == c
  | _ => false

/-- The newest events are an acknowledged write of `c` and then an answered delay of `ms`, with nothing
between (R173, R242). -/
def ackedWriteThenDelay (c : Byte) (ms : BitVec 16) (history : List TpEvent) : Bool :=
  match history with
  | .answered .done :: .sent (.delay ms') :: rest => ms' == ms && ackedWrite c rest
  | _ => false

/-- An answer of the kind a transaction has (R50). -/
def answerFits : Transaction → Answer → Bool
  | .write _, .ack _ => true
  | .delay _, .done => true
  | .read _ _, .fail => true
  | .read _ n, .bytes4 _ => n == 4
  | .read _ n, .bytes6 _ => n == 6
  | _, _ => false

/-- Whether an event may follow a history (newest event first). -/
def eventAllowed (history : List TpEvent) : TpEvent → Bool
  | .sent (.write c) => (c == 0x1E || c == 0x40 || c == 0x04 || c == 0x02) && mayWrite history
  | .sent (.delay ms) =>
    (ms == 15 && ackedWrite 0x1E history) || (ms == 20 && ackedWrite 0x40 history)
  | .sent (.read c n) =>
    (c == 0x0A && n == 4 && ackedWriteThenDelay 0x1E 15 history) ||
      (c == 0x00 && n == 6 && ackedWriteThenDelay 0x40 20 history)
  | .answered a =>
    match history with
    | .sent t :: _ => answerFits t a
    | _ => false

/-- The whole conversation keeps the order: only the six command bytes of R80; at most one transaction
outstanding (R63); every delay right after the acknowledged command that requires it, which nothing
else follows (R170, R171, R240); every read right after its command and its delay (R172, R173,
R242). -/
def logOrdered : List TpEvent → Bool
  | [] => true
  | e :: history => eventAllowed history e && logOrdered history

/-- What the conversation looks like when a step is due that has not issued its transaction. -/
def logFitsPhase (p : Phase) (history : List TpEvent) : Bool :=
  match p with
  | .b2 => ackedWrite 0x1E history
  | .r2 => ackedWrite 0x1E history
  | .m2 => ackedWrite 0x40 history
  | .b3 => ackedWriteThenDelay 0x1E 15 history
  | .m3 => ackedWriteThenDelay 0x40 20 history
  | _ => mayWrite history

/-- The conversation so far fits the step that is due, which may be waiting for its answer. -/
def logDue (s : State) : Bool :=
  match s.tpLog with
  | .sent t :: history => stepTransaction s == some t && logFitsPhase s.phase history
  | history => logFitsPhase s.phase history

/-- The invariant of the transport conversation. -/
def TpInv (s : State) : Prop := logOrdered s.tpLog = true ∧ logDue s = true

/-! ### The origin of a Measurement -/

/-- Both CRC bytes of a combined reply match (R108, R150). -/
def Reply6.crcsMatch (r : Reply6) : Prop := crc8 r.rawT = r.tempCrc ∧ crc8 r.rawRh = r.humCrc

/-- The Measurement registers hold the converted values of a reply that the transport gave and whose
two CRC bytes match (R29, R152). -/
def MeasurementOf (r : Reply6) (s : State) : Prop :=
  .answered (.bytes6 r) ∈ s.tpLog ∧ r.crcsMatch ∧
    s.measT = tempC s.cfg.convRounding r.rawT ∧ s.measRh = rhPct s.cfg.convRounding r.rawRh

/-- What `MEASURE` has established about `RX` when a step of it is due (R150). -/
def rxChecked (s : State) : Prop :=
  match s.phase with
  | .m4 => .answered (.bytes6 s.rx) ∈ s.tpLog
  | .m5 => .answered (.bytes6 s.rx) ∈ s.tpLog ∧ crc8 s.rx.rawT = s.rx.tempCrc
  | .m6 => .answered (.bytes6 s.rx) ∈ s.tpLog ∧ s.rx.crcsMatch
  | _ => True

/-- The invariant of the Measurement: one is visible only once both its CRCs have been verified (R29);
before the first, the three value registers read 0. -/
def MeasInv (s : State) : Prop :=
  rxChecked s ∧
    (s.measValid = true → ∃ r, MeasurementOf r s) ∧
    (s.measValid = false → s.measT = 0 ∧ s.measRh = 0 ∧ s.measTs = 0)

/-! ### Answers at hand -/

/-- The transport has an answer ready for a transaction of every kind. -/
def answersReady (s : State) : Prop :=
  s.acks ≠ [] ∧ s.dones ≠ 0 ∧ s.replies4 ≠ [] ∧ s.replies6 ≠ []

/-- The four Measurement registers are the same in two states. -/
def SameMeasurement (s t : State) : Prop :=
  t.measValid = s.measValid ∧ t.measT = s.measT ∧ t.measRh = s.measRh ∧ t.measTs = s.measTs

/-! ### The conversation after one answered transaction -/

/-- The conversation once the transaction `t` of the step that is due has been issued, not a second
time where the step was already waiting for it, and answered with `a` (R50, R54, R63). -/
def conversed (t : Transaction) (a : Answer) (s : State) : List TpEvent :=
  .answered a :: (if s.tpLog.head? = some (.sent t) then s.tpLog else .sent t :: s.tpLog)

/-- The step that is due has no answer at hand for its transaction. -/
def unanswered (s : State) : Transaction → Prop
  | .write _ => s.acks = []
  | .delay _ => s.dones = 0
  | .read _ n => if n = 4 then s.replies4 = [] else s.replies6 = []

/-! ### Runs, successions, rows -/

/-- `k` steps from a state, stopping at a refusal. -/
def runSteps : Nat → State → Host.Outcome State Fault Refusal
  | 0, s => .next s
  | k + 1, s =>
    match step s with
    | .next t => runSteps k t
    | .fault r => .fault r
    | .refused r => .refused r

/-- The step that follows a step of the same operation (R130, R140, R150, R160, R176): a straight
line. -/
def nextPhase : Phase → Option Phase
  | .idle => none
  | .b1 => some .b2
  | .b2 => some .b3
  | .b3 => some .b4
  | .b4 => some .b5
  | .b5 => none
  | .r1 => some .r2
  | .r2 => some .r3
  | .r3 => none
  | .m1 => some .m2
  | .m2 => some .m3
  | .m3 => some .m4
  | .m4 => some .m5
  | .m5 => some .m6
  | .m6 => none
  | .h1 => none
  | .x1 => none

/-- The rows of R74 as (match, mask): `BEGIN`, `RESET`, `MEASURE`, `HEATER`, `CRC8`, `CONV_T`,
`CONV_RH`. -/
def requestRows : List (Req × Req) :=
  [(0x000001, 0xFFFFFF), (0x000002, 0xFFFFFF), (0x000003, 0xFFFFFF), (0x000004, 0xFFFFF7),
    (0x000005, 0x0000FF), (0x000006, 0x0000FF), (0x000007, 0x0000FF)]

/-- How many rows of R74 a word matches: `(REQ & mask) == match`. -/
def rowsMatched (w : Req) : Nat := (requestRows.filter fun r => w &&& r.2 == r.1).length

/-- A word that R75 calls illegal, in the bits of R71. -/
def IllegalWord (w : Req) : Prop :=
  w.extractLsb' 0 3 = 0 ∨ w.extractLsb' 4 4 ≠ 0 ∨ (w.getLsbD 3 = true ∧ w.extractLsb' 0 3 ≠ 4) ∨
    (w.extractLsb' 8 16 ≠ 0 ∧
      (w.extractLsb' 0 3 = 1 ∨ w.extractLsb' 0 3 = 2 ∨ w.extractLsb' 0 3 = 3 ∨
        w.extractLsb' 0 3 = 4))

end Machine
end Sys2Proof
end

