-- ==== Sys2Proof/Certificates/Slice0/Obligations.lean ====
section
/-! DEFINITION. The statements for the provers.  Each formalises rules of spec/ (named in its docstring and in OBLIGATIONS.json), over every state, every input and every value of the parameters unless it says otherwise. -/

open Sys2Proof Sys2Proof.Machine

/-! ### Encoding (30_encoding.md) -/

/-- Words written out from R74 and R80, one per row of the opcode table. -/
def Obligations.TableWordsDecodeToTheirInstructions : Prop :=
  decodeTableWord 24 0x000001 = some .begin ∧ decodeTableWord 24 0x000002 = some .reset ∧
  decodeTableWord 24 0x000003 = some .measure ∧
  decodeTableWord 24 0x000004 = some (.heater false) ∧
  decodeTableWord 24 0x00000C = some (.heater true) ∧
  decodeTableWord 24 0x123405 = some (.crc8 0x1234) ∧
  decodeTableWord 24 0x666606 = some (.convT 0x6666) ∧
  decodeTableWord 24 0x800007 = some (.convRh 0x8000) ∧
  decodeTableWord 8 0x1E = some .wireReset ∧
  decodeTableWord 8 0x40 = some .wireStartConversion ∧
  decodeTableWord 8 0x0A = some .wireReadSerial ∧ decodeTableWord 8 0x00 = some .wireReadTh ∧
  decodeTableWord 8 0x04 = some .wireHeaterOn ∧ decodeTableWord 8 0x02 = some .wireHeaterOff

/-- Decoding the encoding of any instruction, with any operand, gives the instruction back
(R72 to R74, R80). -/
def Obligations.DecodeOfEncodeIsTheInstruction : Prop :=
  ∀ i : Instr, decode (encode i) = .ok i

/-- Each word has one meaning: a word that decodes is the encoding of what it decodes to (R74, R80). -/
def Obligations.EncodeOfDecodeIsTheWord : Prop :=
  ∀ (e : Encoded) (i : Instr), decode e = .ok i → encode i = e

/-- R74: a word is legal exactly when it matches one row, no word matches two, and each row is its
mnemonic's, the operand bits being bits 23 to 8 and the heater bit bit 3. -/
def Obligations.LegalWordsMatchExactlyOneRow : Prop :=
  ∀ w : Req,
    rowsMatched w ≤ 1 ∧ ((∃ i, decodeReq w = .ok i) ↔ rowsMatched w = 1) ∧
    (decodeReq w = .ok .begin ↔ w &&& 0xFFFFFF = 0x000001) ∧
    (decodeReq w = .ok .reset ↔ w &&& 0xFFFFFF = 0x000002) ∧
    (decodeReq w = .ok .measure ↔ w &&& 0xFFFFFF = 0x000003) ∧
    (∀ on, decodeReq w = .ok (.heater on) ↔ w &&& 0xFFFFF7 = 0x000004 ∧ w.getLsbD 3 = on) ∧
    (∀ v, decodeReq w = .ok (.crc8 v) ↔ w &&& 0x0000FF = 0x000005 ∧ w.extractLsb' 8 16 = v) ∧
    (∀ v, decodeReq w = .ok (.convT v) ↔ w &&& 0x0000FF = 0x000006 ∧ w.extractLsb' 8 16 = v) ∧
    (∀ v, decodeReq w = .ok (.convRh v) ↔ w &&& 0x0000FF = 0x000007 ∧ w.extractLsb' 8 16 = v)

/-- R75: the words R75 lists, and no others, are illegal. -/
def Obligations.IllegalWordsAreThoseTheEncodingRulesList : Prop :=
  ∀ w : Req, (∃ r, decodeReq w = .error r) ↔ IllegalWord w

/-- R80, R81: exactly six command bytes are the block's. -/
def Obligations.ExactlySixCommandBytesDecode : Prop :=
  ∀ b : Byte, (∃ i, decodeWire b = .ok i) ↔
    b = 0x1E ∨ b = 0x40 ∨ b = 0x0A ∨ b = 0x00 ∨ b = 0x04 ∨ b = 0x02

/-! ### Registers and reset (10_state.md, 70_reset_and_hazards.md) -/

/-- R22, R76: the codes of `SEQ_STATE` and of the status. -/
def Obligations.StateAndStatusCodesAreTheTables : Prop :=
  SeqState.uninit.code = 0 ∧ SeqState.reset.code = 1 ∧ SeqState.ready.code = 2 ∧
  SeqState.converting.code = 3 ∧ SeqState.decoded.code = 4 ∧
  Status.ok.code = 0 ∧ Status.errTransport.code = 1 ∧ Status.errIntegrity.code = 2 ∧
  Status.errCmdWrite.code = 3 ∧ Status.errState.code = 4 ∧ Status.errIllegal.code = 5 ∧
  Status.noneYet.code = 7

/-- R31: the read port's map, field by field; the value of `STATUS` after block reset; and a read has no
side effect, so that the next read of the same index gives the same value. -/
def Obligations.ReadPortFollowsTheRegisterMap : Prop :=
  (∀ s : State,
    (hostRead 0 s).extractLsb' 0 3 = s.lastStatus.code ∧
    (hostRead 0 s).extractLsb' 3 1 = 0 ∧
    (hostRead 0 s).extractLsb' 4 3 = s.seqState.code ∧
    (hostRead 0 s).getLsbD 7 = s.busy ∧
    (hostRead 0 s).getLsbD 8 = s.measValid ∧
    (hostRead 0 s).extractLsb' 9 23 = 0 ∧
    hostRead 1 s = s.measT ∧ hostRead 2 s = s.measRh ∧ hostRead 3 s = s.measTs ∧
    hostRead 4 s = s.result ∧
    hostRead 5 s = 0 ∧ hostRead 6 s = 0 ∧ hostRead 7 s = 0) ∧
  hostRead 0 State.reset = 0x00000007 ∧
  ∀ (h : Hosted) (idx : BitVec 3) (rest : List HostAct), h.acts = .rd idx :: .rd idx :: rest →
    ∃ h1 h2, hostedStep h = .next h1 ∧ hostedStep h1 = .next h2 ∧ h1.block = h.block ∧
      h2.block = h.block ∧
      h2.reads = hostRead idx h.block :: hostRead idx h.block :: h.reads

/-- R230: block reset from any state gives the values the spec states, and does no transport
transaction: no event of the conversation is new.  (Nothing is said of the four registers R36 calls
unspecified.) -/
def Obligations.BlockResetGivesTheStatedValues : Prop :=
  ∀ s t : State, (t = blockReset s ∨ t = State.reset) →
    t.seqState = .uninit ∧ t.busy = false ∧ t.phase = .idle ∧ t.lastStatus = .noneYet ∧
    t.measValid = false ∧ t.measT = 0 ∧ t.measRh = 0 ∧ t.measTs = 0 ∧ t.result = 0 ∧
    ∀ e, e ∈ t.tpLog → e ∈ s.tpLog

/-- The three invariants hold after block reset, from any state and with any inputs.  That the
conversation starts empty, a transaction still unanswered being forgotten, is the model's choice
(log entry 8). -/
def Obligations.InvariantsHoldAfterBlockReset : Prop :=
  ∀ s : State, SeqInv (blockReset s) ∧ TpInv (blockReset s) ∧ MeasInv (blockReset s) ∧
    (blockReset s).tpLog = [] ∧
    SeqInv State.reset ∧ TpInv State.reset ∧ MeasInv State.reset

/-! ### The step and the request port (R120 to R123) -/

/-- An idle block's step takes the word presented and runs the instruction it decodes to. -/
def Obligations.IdleStepRunsTheDecodedRequest : Prop :=
  ∀ (s : State) (w : Req) (rest : List Req) (i : Instr),
    s.phase = .idle → s.busy = false → s.reqs = w :: rest → decodeReq w = .ok i →
    step s = exec i { s with reqs := rest }

/-- A busy block's step is the step of the operation that `phase` names (R27, R35).  That it is the
meaning of the command byte too, where the step sends one, is the model's choice (log entry 19): the
spec gives the bytes no meaning of their own. -/
def Obligations.BusyStepRunsTheStepThatPhaseNames : Prop :=
  ∀ s : State,
    (s.phase = .b1 → step s = exec .begin s ∧ step s = exec .wireReset s) ∧
    (s.phase = .b2 → step s = exec .begin s) ∧
    (s.phase = .b3 → step s = exec .begin s ∧ step s = exec .wireReadSerial s) ∧
    (s.phase = .b4 → step s = exec .begin s) ∧
    (s.phase = .b5 → step s = exec .begin s) ∧
    (s.phase = .r1 → step s = exec .reset s ∧ step s = exec .wireReset s) ∧
    (s.phase = .r2 → step s = exec .reset s) ∧
    (s.phase = .r3 → step s = exec .reset s) ∧
    (s.phase = .m1 → step s = exec .measure s ∧ step s = exec .wireStartConversion s) ∧
    (s.phase = .m2 → step s = exec .measure s) ∧
    (s.phase = .m3 → step s = exec .measure s ∧ step s = exec .wireReadTh s) ∧
    (s.phase = .m4 → step s = exec .measure s) ∧
    (s.phase = .m5 → step s = exec .measure s) ∧
    (s.phase = .m6 → step s = exec .measure s) ∧
    (s.phase = .h1 → step s = exec (.heater (argOn s)) s ∧
      step s = exec (if argOn s = true then .wireHeaterOn else .wireHeaterOff) s) ∧
    (s.phase = .x1 → s.curOp = 5 → step s = exec (.crc8 (argImm s)) s) ∧
    (s.phase = .x1 → s.curOp = 6 → step s = exec (.convT (argImm s)) s) ∧
    (s.phase = .x1 → s.curOp = 7 → step s = exec (.convRh (argImm s)) s)

/-- R32, R245: with no request presented an idle block keeps its state, so a host's reads in between
see one Measurement. -/
def Obligations.IdleBlockWithoutRequestKeepsItsState : Prop :=
  ∀ (s : State) (k : Nat), s.phase = .idle → s.busy = false → s.reqs = [] →
    runSteps k s = .next s

/-- R123 with R120: in `UNINIT` and in `READY`, each operation is taken up at its first step where the
table says yes, and ends `ERR_STATE`, changing nothing else, where it says no; the pure operations are
taken up in every `SEQ_STATE` (R101, R181, R182). -/
def Obligations.RequestsAreAcceptedExactlyWhereValid : Prop :=
  ∀ s : State, s.phase = .idle → s.busy = false →
    (s.seqState = .uninit ∨ s.seqState = .ready →
      exec .begin s = .next { s with curOp := 1, curArg := 0, busy := true, phase := .b1 }) ∧
    (s.seqState = .ready →
      exec .reset s = .next { s with curOp := 2, curArg := 0, busy := true, phase := .r1 } ∧
      exec .measure s = .next { s with curOp := 3, curArg := 0, busy := true, phase := .m1 } ∧
      ∀ on, exec (.heater on) s =
        .next { s with curOp := 4, curArg := BitVec.ofBool on ++ (0 : U16), busy := true,
                       phase := .h1 }) ∧
    (s.seqState = .uninit →
      exec .reset s = .next { s with lastStatus := .errState } ∧
      exec .measure s = .next { s with lastStatus := .errState } ∧
      ∀ on, exec (.heater on) s = .next { s with lastStatus := .errState }) ∧
    ∀ v : U16,
      exec (.crc8 v) s = .next { s with curOp := 5, curArg := BitVec.ofBool false ++ v,
                                        busy := true, phase := .x1 } ∧
      exec (.convT v) s = .next { s with curOp := 6, curArg := BitVec.ofBool false ++ v,
                                         busy := true, phase := .x1 } ∧
      exec (.convRh v) s = .next { s with curOp := 7, curArg := BitVec.ofBool false ++ v,
                                          busy := true, phase := .x1 }

/-- R121: an illegal word, in whatever `SEQ_STATE`, ends in its acceptance step with `ERR_ILLEGAL` and
changes nothing else. -/
def Obligations.IllegalWordsChangeOnlyTheStatus : Prop :=
  ∀ (s : State) (w : Req) (rest : List Req),
    s.phase = .idle → s.busy = false → s.reqs = w :: rest → IllegalWord w →
    step s = .next { s with reqs := rest, lastStatus := .errIllegal }

/-- R120, R244: a step takes a word from the request port only where the block is idle, and then one;
while it is busy the host's words wait. -/
def Obligations.RequestsWaitWhileTheBlockIsBusy : Prop :=
  ∀ s t : State, step s = .next t →
    (s.phase ≠ .idle → t.reqs = s.reqs) ∧ (s.phase = .idle → t.reqs = s.reqs.tail)

/-- The model's choice (log entry 10, after 93 I6 and I8): where no step of an instruction is due, its
meaning refuses by name.  A host operation refuses while another operation, or the same one with
another operand, is in progress, and a command byte refuses in a step that does not send it. -/
def Obligations.NoInstructionRunsInAForeignStep : Prop :=
  ∀ s : State, s.phase ≠ .idle →
    (s.phase ∉ [Phase.b1, .b2, .b3, .b4, .b5] → exec .begin s = .refused .requestWhileBusy) ∧
    (s.phase ∉ [Phase.r1, .r2, .r3] → exec .reset s = .refused .requestWhileBusy) ∧
    (s.phase ∉ [Phase.m1, .m2, .m3, .m4, .m5, .m6] →
      exec .measure s = .refused .requestWhileBusy) ∧
    (∀ on, ¬(s.phase = .h1 ∧ s.curArg.getLsbD 16 = on) →
      exec (.heater on) s = .refused .requestWhileBusy) ∧
    (∀ v : U16,
      (¬(s.phase = .x1 ∧ s.curOp = 5 ∧ s.curArg.extractLsb' 0 16 = v) →
        exec (.crc8 v) s = .refused .requestWhileBusy) ∧
      (¬(s.phase = .x1 ∧ s.curOp = 6 ∧ s.curArg.extractLsb' 0 16 = v) →
        exec (.convT v) s = .refused .requestWhileBusy) ∧
      (¬(s.phase = .x1 ∧ s.curOp = 7 ∧ s.curArg.extractLsb' 0 16 = v) →
        exec (.convRh v) s = .refused .requestWhileBusy)) ∧
    (s.phase ≠ .b1 → s.phase ≠ .r1 → exec .wireReset s = .refused .commandNotSentHere) ∧
    (s.phase ≠ .m1 → exec .wireStartConversion s = .refused .commandNotSentHere) ∧
    (s.phase ≠ .b3 → exec .wireReadSerial s = .refused .commandNotSentHere) ∧
    (s.phase ≠ .m3 → exec .wireReadTh s = .refused .commandNotSentHere) ∧
    (¬(s.phase = .h1 ∧ s.curArg.getLsbD 16 = true) →
      exec .wireHeaterOn s = .refused .commandNotSentHere) ∧
    (¬(s.phase = .h1 ∧ s.curArg.getLsbD 16 = false) →
      exec .wireHeaterOff s = .refused .commandNotSentHere)

/-- R122 and R201: what ending and failing an operation write, and that they write nothing else but
`CUR_OP` and `CUR_ARG`, which are unspecified while idle (R26, log entry 5: free values). -/
def Obligations.EndAndFailWriteWhatTheyName : Prop :=
  ∀ (st : Status) (q : SeqState) (s : State),
    endOp st s =
      { s with lastStatus := st, busy := false, phase := .idle,
               curOp := Config.freeCurOp s.draws, curArg := Config.freeCurArg s.draws,
               draws := s.draws + 1 } ∧
    failOp st q s =
      { s with lastStatus := st, busy := false, phase := .idle, seqState := q,
               curOp := Config.freeCurOp s.draws, curArg := Config.freeCurArg s.draws,
               draws := s.draws + 1 }

/-! ### The operations, step by step, with everything they leave unchanged -/

/-- R130: the five steps of `BEGIN`, each with its failure. -/
def Obligations.BeginRunsItsFiveSteps : Prop :=
  (∀ (s : State) (rest : List Bool), s.phase = .b1 → s.acks = true :: rest →
    exec .begin s = .next
      { s with acks := rest, tpLog := conversed (.write 0x1E) (.ack true) s,
               seqState := .reset, phase := .b2 }) ∧
  (∀ (s : State) (rest : List Bool), s.phase = .b1 → s.acks = false :: rest →
    exec .begin s = .next (endOp .errTransport
      { s with acks := rest, tpLog := conversed (.write 0x1E) (.ack false) s,
               seqState := .uninit })) ∧
  (∀ (s : State) (n : Nat), s.phase = .b2 → s.dones = n + 1 →
    exec .begin s = .next
      { s with dones := n, tpLog := conversed (.delay 15) .done s, phase := .b3 }) ∧
  (∀ (s : State) (rest : List (Option Reply4)), s.phase = .b3 → s.replies4 = none :: rest →
    exec .begin s = .next (endOp .errTransport
      { s with replies4 := rest, tpLog := conversed (.read 0x0A 4) .fail s,
               seqState := .uninit })) ∧
  (∀ (s : State) (r : Reply4) (rest : List (Option Reply4)),
    s.phase = .b3 → s.replies4 = some r :: rest →
    exec .begin s = .next
      { s with replies4 := rest, tpLog := conversed (.read 0x0A 4) (.bytes4 r) s,
               rx := { s.rx with b0 := r.b0, b1 := r.b1, b2 := r.b2, b3 := r.b3 },
               phase := .b4 }) ∧
  (∀ s : State, s.phase = .b4 →
    exec .begin s = .next
      (if s.cfg.serialZeroIsFailure = true ∧
          s.rx.b0 ++ s.rx.b1 ++ s.rx.b2 ++ s.rx.b3 = (0 : U32) then
        endOp .errTransport
          { s with serial := s.rx.b0 ++ s.rx.b1 ++ s.rx.b2 ++ s.rx.b3, seqState := .uninit }
      else
        { s with serial := s.rx.b0 ++ s.rx.b1 ++ s.rx.b2 ++ s.rx.b3, phase := .b5 })) ∧
  (∀ s : State, s.phase = .b5 → exec .begin s = .next (endOp .ok { s with seqState := .ready }))

/-- R140: the three steps of `RESET`; the Measurement, `RESULT`, `RX` and `SERIAL` survive. -/
def Obligations.ResetRunsItsThreeSteps : Prop :=
  (∀ (s : State) (rest : List Bool), s.phase = .r1 → s.acks = true :: rest →
    exec .reset s = .next
      { s with acks := rest, tpLog := conversed (.write 0x1E) (.ack true) s,
               seqState := .reset, phase := .r2 }) ∧
  (∀ (s : State) (rest : List Bool), s.phase = .r1 → s.acks = false :: rest →
    exec .reset s = .next (endOp .errCmdWrite
      { s with acks := rest, tpLog := conversed (.write 0x1E) (.ack false) s,
               seqState := .ready })) ∧
  (∀ (s : State) (n : Nat), s.phase = .r2 → s.dones = n + 1 →
    exec .reset s = .next
      { s with dones := n, tpLog := conversed (.delay 15) .done s, phase := .r3 }) ∧
  (∀ s : State, s.phase = .r3 → exec .reset s = .next (endOp .ok { s with seqState := .ready }))

/-- R150: the six steps of `MEASURE`; a temperature mismatch ends it before the humidity is looked at,
and the commit writes all four Measurement registers at once.  Where the state lists no sample of
`NOW_MS`, the timestamp is a free value (log entry 4). -/
def Obligations.MeasureRunsItsSixSteps : Prop :=
  (∀ (s : State) (rest : List Bool), s.phase = .m1 → s.acks = true :: rest →
    exec .measure s = .next
      { s with acks := rest, tpLog := conversed (.write 0x40) (.ack true) s,
               seqState := .converting, phase := .m2 }) ∧
  (∀ (s : State) (rest : List Bool), s.phase = .m1 → s.acks = false :: rest →
    exec .measure s = .next (endOp .errCmdWrite
      { s with acks := rest, tpLog := conversed (.write 0x40) (.ack false) s,
               seqState := .ready })) ∧
  (∀ (s : State) (n : Nat), s.phase = .m2 → s.dones = n + 1 →
    exec .measure s = .next
      { s with dones := n, tpLog := conversed (.delay 20) .done s, phase := .m3 }) ∧
  (∀ (s : State) (rest : List (Option Reply6)), s.phase = .m3 → s.replies6 = none :: rest →
    exec .measure s = .next (endOp .errTransport
      { s with replies6 := rest, tpLog := conversed (.read 0x00 6) .fail s,
               seqState := .ready })) ∧
  (∀ (s : State) (r : Reply6) (rest : List (Option Reply6)),
    s.phase = .m3 → s.replies6 = some r :: rest →
    exec .measure s = .next
      { s with replies6 := rest, tpLog := conversed (.read 0x00 6) (.bytes6 r) s,
               rx := r, phase := .m4 }) ∧
  (∀ s : State, s.phase = .m4 →
    exec .measure s = .next
      (if crc8 (s.rx.b0 ++ s.rx.b1) = s.rx.b2 then { s with seqState := .decoded, phase := .m5 }
      else endOp .errIntegrity { s with seqState := .ready })) ∧
  (∀ s : State, s.phase = .m5 →
    exec .measure s = .next
      (if crc8 (s.rx.b3 ++ s.rx.b4) = s.rx.b5 then { s with phase := .m6 }
      else endOp .errIntegrity { s with seqState := .ready })) ∧
  (∀ (s : State) (now : U32) (rest : List U32), s.phase = .m6 → s.nowMs = now :: rest →
    exec .measure s = .next (endOp .ok
      { s with measT := tempC s.cfg.convRounding (s.rx.b0 ++ s.rx.b1),
               measRh := rhPct s.cfg.convRounding (s.rx.b3 ++ s.rx.b4),
               measTs := now, nowMs := rest, measValid := true, seqState := .ready })) ∧
  (∀ s : State, s.phase = .m6 → s.nowMs = [] →
    exec .measure s = .next (endOp .ok
      { s with measT := tempC s.cfg.convRounding (s.rx.b0 ++ s.rx.b1),
               measRh := rhPct s.cfg.convRounding (s.rx.b3 ++ s.rx.b4),
               measTs := Config.freeNowMs s.draws, draws := s.draws + 1, measValid := true,
               seqState := .ready }))

/-- R160: `HEATER` sends the byte its switch selects; the ack alone decides the status. -/
def Obligations.HeaterSendsItsByteAndReportsTheAck : Prop :=
  ∀ (s : State) (on a : Bool) (rest : List Bool),
    s.phase = .h1 → s.curArg.getLsbD 16 = on → s.acks = a :: rest →
    exec (.heater on) s = .next (endOp (if a then .ok else .errCmdWrite)
      { s with acks := rest,
               tpLog := conversed (.write (if on then 0x04 else 0x02)) (.ack a) s })

/-- R101, R181, R182: the step X1 of each pure operation writes `RESULT` and ends `OK`, from the
operand in `CUR_ARG`. -/
def Obligations.PureOperationsWriteTheirResult : Prop :=
  ∀ (s : State) (v : U16), s.phase = .x1 → s.curArg.extractLsb' 0 16 = v →
    (s.curOp = 5 →
      exec (.crc8 v) s = .next (endOp .ok { s with result := (crc8 v).setWidth 32 })) ∧
    (s.curOp = 6 →
      exec (.convT v) s = .next (endOp .ok { s with result := tempC s.cfg.convRounding v })) ∧
    (s.curOp = 7 →
      exec (.convRh v) s = .next (endOp .ok { s with result := rhPct s.cfg.convRounding v }))

/-- The Reset, StartConversion, ReadSerial and ReadTemperatureHumidity commands, each in the step that
sends it, for every answer of the transport: what the step does is R130, R140 and R150.  That the
meaning of the byte is the whole step is the model's choice (log entry 19). -/
def Obligations.ResetConversionAndReadCommandsRunInTheirSteps : Prop :=
  (∀ (s : State) (a : Bool) (rest : List Bool), s.phase = .b1 → s.acks = a :: rest →
    exec .wireReset s = .next
      (if a then { s with acks := rest, tpLog := conversed (.write 0x1E) (.ack true) s,
                          seqState := .reset, phase := .b2 }
      else endOp .errTransport
        { s with acks := rest, tpLog := conversed (.write 0x1E) (.ack false) s,
                 seqState := .uninit })) ∧
  (∀ (s : State) (a : Bool) (rest : List Bool), s.phase = .r1 → s.acks = a :: rest →
    exec .wireReset s = .next
      (if a then { s with acks := rest, tpLog := conversed (.write 0x1E) (.ack true) s,
                          seqState := .reset, phase := .r2 }
      else endOp .errCmdWrite
        { s with acks := rest, tpLog := conversed (.write 0x1E) (.ack false) s,
                 seqState := .ready })) ∧
  (∀ (s : State) (a : Bool) (rest : List Bool), s.phase = .m1 → s.acks = a :: rest →
    exec .wireStartConversion s = .next
      (if a then { s with acks := rest, tpLog := conversed (.write 0x40) (.ack true) s,
                          seqState := .converting, phase := .m2 }
      else endOp .errCmdWrite
        { s with acks := rest, tpLog := conversed (.write 0x40) (.ack false) s,
                 seqState := .ready })) ∧
  (∀ (s : State) (r : Reply4) (rest : List (Option Reply4)),
    s.phase = .b3 → s.replies4 = some r :: rest →
    exec .wireReadSerial s = .next
      { s with replies4 := rest, tpLog := conversed (.read 0x0A 4) (.bytes4 r) s,
               rx := { s.rx with b0 := r.b0, b1 := r.b1, b2 := r.b2, b3 := r.b3 },
               phase := .b4 }) ∧
  (∀ (s : State) (rest : List (Option Reply4)), s.phase = .b3 → s.replies4 = none :: rest →
    exec .wireReadSerial s = .next (endOp .errTransport
      { s with replies4 := rest, tpLog := conversed (.read 0x0A 4) .fail s,
               seqState := .uninit })) ∧
  (∀ (s : State) (r : Reply6) (rest : List (Option Reply6)),
    s.phase = .m3 → s.replies6 = some r :: rest →
    exec .wireReadTh s = .next
      { s with replies6 := rest, tpLog := conversed (.read 0x00 6) (.bytes6 r) s,
               rx := r, phase := .m4 }) ∧
  (∀ (s : State) (rest : List (Option Reply6)), s.phase = .m3 → s.replies6 = none :: rest →
    exec .wireReadTh s = .next (endOp .errTransport
      { s with replies6 := rest, tpLog := conversed (.read 0x00 6) .fail s,
               seqState := .ready }))

/-- HeaterOn runs in H1 with `on == 1` and HeaterOff in H1 with `on == 0`: what the step does is R160.
That the meaning of the byte is the whole step (log entry 19), and that each refuses in the other's
(log entry 10), is the model's choice. -/
def Obligations.HeaterCommandsRunInTheirStep : Prop :=
  ∀ (s : State) (a : Bool) (rest : List Bool), s.phase = .h1 → s.acks = a :: rest →
    (s.curArg.getLsbD 16 = true →
      exec .wireHeaterOn s = .next (endOp (if a then .ok else .errCmdWrite)
        { s with acks := rest, tpLog := conversed (.write 0x04) (.ack a) s }) ∧
      exec .wireHeaterOff s = .refused .commandNotSentHere) ∧
    (s.curArg.getLsbD 16 = false →
      exec .wireHeaterOff s = .next (endOp (if a then .ok else .errCmdWrite)
        { s with acks := rest, tpLog := conversed (.write 0x02) (.ack a) s }) ∧
      exec .wireHeaterOn s = .refused .commandNotSentHere)

/-- R54, R206: a transaction that is never answered leaves the block in its step with `BUSY == 1` for
ever; it is issued once, and nothing else changes.  That `SEQ_STATE` too stays while B1, R1 or M1 waits
is the model's choice between R22 and R63, R203 and R247 (log entry 7). -/
def Obligations.UnansweredTransactionLeavesTheBlockWaiting : Prop :=
  ∀ (s : State) (t : Transaction) (k : Nat), SeqInv s → stepTransaction s = some t →
    unanswered s t →
    runSteps (k + 1) s =
      .next { s with tpLog := if s.tpLog.head? = some (.sent t) then s.tpLog
                              else .sent t :: s.tpLog } ∧
    s.busy = true

/-! ### Whole-machine rules -/

/-- R28: only the commit step M6 writes the Measurement registers, and it writes all four. -/
def Obligations.OnlyTheCommitStepWritesTheMeasurement : Prop :=
  ∀ s t : State, step s = .next t →
    SameMeasurement s t ∨
    (s.phase = .m6 ∧ t.measValid = true ∧
      t.measT = tempC s.cfg.convRounding (s.rx.b0 ++ s.rx.b1) ∧
      t.measRh = rhPct s.cfg.convRounding (s.rx.b3 ++ s.rx.b4) ∧ t.measTs = nowValue s)

/-- R30: only the step X1 of `CRC8`, `CONV_T` and `CONV_RH` writes `RESULT`, with what R30 says; it is 0
after block reset. -/
def Obligations.OnlyThePureOperationsWriteResult : Prop :=
  (∀ s : State, (blockReset s).result = 0x00000000) ∧
  ∀ s t : State, step s = .next t →
    t.result = s.result ∨
    (s.phase = .x1 ∧
      ((s.curOp = 5 ∧ t.result = (crc8 (argImm s)).setWidth 32) ∨
        (s.curOp = 6 ∧ t.result = tempC s.cfg.convRounding (argImm s)) ∨
        (s.curOp = 7 ∧ t.result = rhPct s.cfg.convRounding (argImm s))))

/-- R33: `RX` is written only by the two reads and `SERIAL` only by B4.  That `RX` keeps its contents
past an operation that did not write it, which 93 I7 calls unspecified, is the model's choice between
the two (log entry 6). -/
def Obligations.OnlyTheNamedStepsWriteTheBuffers : Prop :=
  ∀ s t : State, step s = .next t →
    (t.rx = s.rx ∨
      (s.phase = .b3 ∧ t.rx.b4 = s.rx.b4 ∧ t.rx.b5 = s.rx.b5 ∧
        ∃ r, s.replies4.head? = some (some r) ∧ t.rx.b0 = r.b0 ∧ t.rx.b1 = r.b1 ∧
          t.rx.b2 = r.b2 ∧ t.rx.b3 = r.b3) ∨
      (s.phase = .m3 ∧ s.replies6.head? = some (some t.rx))) ∧
    (t.serial = s.serial ∨
      (s.phase = .b4 ∧ t.serial = s.rx.b0 ++ s.rx.b1 ++ s.rx.b2 ++ s.rx.b3))

/-- R23: who writes `SEQ_STATE`, and with what. -/
def Obligations.OnlyTheNamedOperationsWriteSeqState : Prop :=
  (∀ s : State, (blockReset s).seqState = .uninit) ∧
  ∀ s t : State, step s = .next t → t.seqState ≠ s.seqState →
    (s.phase ∈ [Phase.b1, .b3, .b4, .b5] ∧
      ((s.phase = .b1 ∧ t.seqState = .reset) ∨ (s.phase = .b5 ∧ t.seqState = .ready) ∨
        (t.lastStatus = .errTransport ∧ t.seqState = .uninit))) ∨
    (s.phase ∈ [Phase.r1, .r3] ∧
      ((s.phase = .r1 ∧ t.seqState = .reset) ∨ (t.busy = false ∧ t.seqState = .ready))) ∨
    (s.phase ∈ [Phase.m1, .m3, .m4, .m5, .m6] ∧
      ((s.phase = .m1 ∧ t.seqState = .converting) ∨ (s.phase = .m4 ∧ t.seqState = .decoded) ∨
        (t.busy = false ∧ t.seqState = .ready)))

/-- R24, R122: `LAST_STATUS` changes only in a step that leaves the block idle with `BUSY == 0`, and an
operation never ends with `NONE`. -/
def Obligations.StatusIsWrittenOnlyAtTheEnd : Prop :=
  ∀ s t : State, step s = .next t →
    (t.lastStatus ≠ s.lastStatus → t.phase = .idle ∧ t.busy = false) ∧
    (s.phase ≠ .idle → t.phase = .idle → t.lastStatus ≠ .noneYet)

/-- R5, R20: no step writes a parameter (log entry 2: the parameters stand in the state). -/
def Obligations.NoStepWritesTheParameters : Prop :=
  ∀ s t : State, step s = .next t → t.cfg = s.cfg

/-- R176: an acceptance step goes to a first step or stays idle; from a step, control passes to the next
step of the same operation, or the operation ends where R130, R140, R150 and R160 end it (never in the
delays B2, R2 and M2; before its last step only with a failure), or the step waits for the transport;
and the state in which each operation ends. -/
def Obligations.ControlFollowsTheStepSuccessions : Prop :=
  ∀ s t : State, SeqInv s → step s = .next t →
    (s.phase = .idle →
      t.seqState = s.seqState ∧ t.phase ∈ [Phase.idle, .b1, .r1, .m1, .h1, .x1]) ∧
    (s.phase ≠ .idle →
      (t.phase = .idle ∧ s.phase ∉ [Phase.b2, .r2, .m2] ∧
        (nextPhase s.phase ≠ none → t.lastStatus ≠ .ok)) ∨
      nextPhase s.phase = some t.phase ∨
      (t.phase = s.phase ∧ stepTransaction s ≠ none ∧ outstanding t = stepTransaction s)) ∧
    (s.phase ≠ .idle → t.phase = .idle →
      (s.curOp = 1 →
        (t.lastStatus = .ok ∧ t.seqState = .ready) ∨
        (t.lastStatus ≠ .ok ∧ t.seqState = .uninit)) ∧
      (s.curOp = 2 ∨ s.curOp = 3 ∨ s.curOp = 4 → t.seqState = .ready) ∧
      (s.curOp = 5 ∨ s.curOp = 6 ∨ s.curOp = 7 →
        t.lastStatus = .ok ∧ t.seqState = s.seqState))

/-- R204: a step after which the status is not `OK` leaves every host-visible register but `STATUS` as
it was. -/
def Obligations.FailureChangesNoRegisterButStatus : Prop :=
  ∀ s t : State, step s = .next t → t.lastStatus ≠ .ok →
    SameMeasurement s t ∧ t.result = s.result ∧
    hostRead 1 t = hostRead 1 s ∧ hostRead 2 t = hostRead 2 s ∧ hostRead 3 t = hostRead 3 s ∧
    hostRead 4 t = hostRead 4 s

/-- R80, R81, R170 to R175: which transaction a step issues; no step issues two (R27). -/
def Obligations.TransactionsAreSentOnlyByTheirSteps : Prop :=
  ∀ s t : State, step s = .next t →
    ∃ new : List TpEvent, t.tpLog = new ++ s.tpLog ∧
      (new = [] ∨ (∃ a, new = [.answered a]) ∨ (∃ x, new = [.sent x]) ∨
        ∃ a x, new = [.answered a, .sent x]) ∧
      ∀ x, .sent x ∈ new →
        (x = .write 0x1E ∧ (s.phase = .b1 ∨ s.phase = .r1)) ∨
        (x = .write 0x40 ∧ s.phase = .m1) ∨
        (x = .write 0x04 ∧ s.phase = .h1 ∧ s.curArg.getLsbD 16 = true) ∨
        (x = .write 0x02 ∧ s.phase = .h1 ∧ s.curArg.getLsbD 16 = false) ∨
        (x = .delay 15 ∧ (s.phase = .b2 ∨ s.phase = .r2)) ∨
        (x = .delay 20 ∧ s.phase = .m2) ∨
        (x = .read 0x0A 4 ∧ s.phase = .b3) ∨
        (x = .read 0x00 6 ∧ s.phase = .m3)

/-- R206 with R120: a block whose bookkeeping agrees never stops: every step of it answers a next
state. -/
def Obligations.EveryStepOfABookkeptBlockAnswersANextState : Prop :=
  ∀ s : State, SeqInv s → ∃ t, step s = .next t

/-! ### Invariants that every step keeps -/

/-- `BUSY`, `phase`, `SEQ_STATE` and `CUR_OP` keep agreeing (R25, R26).  Which `SEQ_STATE` stands while a
step is due (`UNINIT` or `READY` in B1, `CONVERTING` in M4, `DECODED` in M6) is the model's choice
(log entry 7): the column 'held when' of R22 reads otherwise. -/
def Obligations.EveryStepKeepsTheBookkeepingInvariant : Prop :=
  ∀ s t : State, SeqInv s → step s = .next t → SeqInv t

/-- R63, R170 to R173, R240, R242: the transport conversation keeps its order, whatever the transport
answers. -/
def Obligations.EveryStepKeepsTheTransportOrder : Prop :=
  ∀ s t : State, TpInv s → step s = .next t → TpInv t

/-- R29, R152: a visible Measurement keeps coming from a reply whose two CRC bytes match. -/
def Obligations.EveryStepKeepsTheOriginOfTheMeasurement : Prop :=
  ∀ s t : State, MeasInv s → step s = .next t → MeasInv t

/-- The same over whole runs: from block reset, with any requests and any transport answers, after any
number of steps, no read or delay was ever out of order, and a visible Measurement is the converted
value of a reply whose two CRC bytes match; and the bookkeeping agrees (R22, R25 to R27).  Two parts are
the model's choice: which `SEQ_STATE` stands while a step is due (log entry 7, as in the statement that
every step keeps the bookkeeping), and that the conversation is the one since block reset (log
entry 8). -/
def Obligations.EveryRunFromBlockResetIsSafe : Prop :=
  ∀ (s t : State) (k : Nat), runSteps k (blockReset s) = .next t →
    SeqInv t ∧ logOrdered t.tpLog = true ∧ (t.measValid = true → ∃ r, MeasurementOf r t)

/-! ### Whole operations -/

/-- R27, R206: every operation ends within six steps once the transport answers. -/
def Obligations.EveryOperationEndsWithinSixAnsweredSteps : Prop :=
  ∀ s : State, SeqInv s → s.phase ≠ .idle → answersReady s →
    ∃ (k : Nat) (t : State), k ≤ 6 ∧ runSteps k s = .next t ∧ t.phase = .idle ∧ t.busy = false

/-- R152: a `MEASURE` from `READY`, whatever the transport answers, either ends `OK` with the converted
values of the reply it read, whose two CRC bytes matched, and `NOW_MS`; or ends otherwise with the four
Measurement registers as they were. -/
def Obligations.MeasureCommitsACheckedReplyOrKeepsTheMeasurement : Prop :=
  ∀ (s t : State) (rest : List Req) (k : Nat),
    s.phase = .idle → s.busy = false → s.seqState = .ready → s.reqs = 0x000003 :: rest →
    runSteps k s = .next t → t.phase = .idle → t.reqs = rest →
    (t.lastStatus = .ok ∧ t.measValid = true ∧ t.measTs = nowValue s ∧
      ∃ r, s.replies6.head? = some (some r) ∧ MeasurementOf r t) ∨
    (t.lastStatus ≠ .ok ∧ SameMeasurement s t)

/-- R150: a `MEASURE` from `READY` with an acknowledged trigger and a reply whose CRC bytes match ends
`OK` in `READY` with the converted Measurement; the conversation is the three transactions of R150, and
`RESULT` and `SERIAL` are as they were. -/
def Obligations.MeasureWithAGoodReplyPublishesIt : Prop :=
  ∀ (s : State) (rest : List Req) (acks : List Bool) (n : Nat) (r : Reply6)
    (replies : List (Option Reply6)) (now : U32) (nows : List U32),
    s.phase = .idle → s.busy = false → s.seqState = .ready → s.reqs = 0x000003 :: rest →
    s.acks = true :: acks → s.dones = n + 1 → s.replies6 = some r :: replies →
    s.nowMs = now :: nows → outstanding s = none →
    crc8 (r.b0 ++ r.b1) = r.b2 → crc8 (r.b3 ++ r.b4) = r.b5 →
    ∃ t, runSteps 7 s = .next t ∧ t.phase = .idle ∧ t.busy = false ∧ t.seqState = .ready ∧
      t.lastStatus = .ok ∧ t.measValid = true ∧
      t.measT = tempC s.cfg.convRounding (r.b0 ++ r.b1) ∧
      t.measRh = rhPct s.cfg.convRounding (r.b3 ++ r.b4) ∧ t.measTs = now ∧
      t.result = s.result ∧ t.serial = s.serial ∧ t.reqs = rest ∧
      t.tpLog = [.answered (.bytes6 r), .sent (.read 0x00 6), .answered .done,
        .sent (.delay 20), .answered (.ack true), .sent (.write 0x40)] ++ s.tpLog

/-- R150: a reply whose temperature CRC does not match ends the `MEASURE` `ERR_INTEGRITY` at M4, and
one whose humidity CRC alone does not match at M5; the Measurement is as it was. -/
def Obligations.MeasureWithABadCrcPublishesNothing : Prop :=
  ∀ (s : State) (rest : List Req) (acks : List Bool) (n : Nat) (r : Reply6)
    (replies : List (Option Reply6)),
    s.phase = .idle → s.busy = false → s.seqState = .ready → s.reqs = 0x000003 :: rest →
    s.acks = true :: acks → s.dones = n + 1 → s.replies6 = some r :: replies →
    (crc8 (r.b0 ++ r.b1) ≠ r.b2 →
      ∃ t, runSteps 5 s = .next t ∧ t.phase = .idle ∧ t.busy = false ∧ t.seqState = .ready ∧
        t.lastStatus = .errIntegrity ∧ SameMeasurement s t ∧ t.result = s.result) ∧
    (crc8 (r.b0 ++ r.b1) = r.b2 → crc8 (r.b3 ++ r.b4) ≠ r.b5 →
      ∃ t, runSteps 6 s = .next t ∧ t.phase = .idle ∧ t.busy = false ∧ t.seqState = .ready ∧
        t.lastStatus = .errIntegrity ∧ SameMeasurement s t ∧ t.result = s.result)

/-- R130, R233: a `BEGIN` from `UNINIT` or `READY` with an acknowledged Reset and four serial bytes ends
after its steps: `READY` and `OK`, or, where the parameter makes a zero serial a failure and the serial
is zero, `UNINIT` and `ERR_TRANSPORT`.  The Measurement and `RESULT` are kept, and the conversation is
the three transactions of R130. -/
def Obligations.BeginWithASerialReplyEndsReadyOrDegenerate : Prop :=
  ∀ (s : State) (rest : List Req) (acks : List Bool) (n : Nat) (r : Reply4)
    (replies : List (Option Reply4)),
    s.phase = .idle → s.busy = false → (s.seqState = .uninit ∨ s.seqState = .ready) →
    s.reqs = 0x000001 :: rest → s.acks = true :: acks → s.dones = n + 1 →
    s.replies4 = some r :: replies → outstanding s = none →
    ∃ t, t.phase = .idle ∧ t.busy = false ∧ t.reqs = rest ∧ SameMeasurement s t ∧
      t.result = s.result ∧ t.serial = r.b0 ++ r.b1 ++ r.b2 ++ r.b3 ∧
      t.tpLog = [.answered (.bytes4 r), .sent (.read 0x0A 4), .answered .done,
        .sent (.delay 15), .answered (.ack true), .sent (.write 0x1E)] ++ s.tpLog ∧
      (if s.cfg.serialZeroIsFailure = true ∧ r.b0 ++ r.b1 ++ r.b2 ++ r.b3 = (0 : U32) then
        runSteps 5 s = .next t ∧ t.seqState = .uninit ∧ t.lastStatus = .errTransport
      else runSteps 6 s = .next t ∧ t.seqState = .ready ∧ t.lastStatus = .ok)

/-! ### CRC-8 (40_crc.md) -/

/-- R102: every set bit of `poly` lies inside `mask`, before and after each shift; so the masked update
is the plain exclusive OR, and the loop without the mask gives the same byte. -/
def Obligations.CrcMaskHasNoEffect : Prop :=
  (∀ (v : U16) (k : Nat), k ≤ 16 →
    (crcRound^[k] (crcStart v)).poly &&& ~~~(crcRound^[k] (crcStart v)).mask = 0) ∧
  (∀ (v : U16) (k : Nat) (result : BitVec 24), k ≤ 16 →
    ((result ^^^ (crcRound^[k] (crcStart v)).poly) &&& (crcRound^[k] (crcStart v)).mask) |||
        (result &&& ~~~(crcRound^[k] (crcStart v)).mask) =
      result ^^^ (crcRound^[k] (crcStart v)).poly) ∧
  ∀ v : U16, crc8 v = crc8Unmasked v

/-- R103: `crc8(v)` is the remainder of `v(x) * x^8` divided by `x^8 + x^5 + x^4 + 1` over GF(2): with
some quotient the division comes out, and no other remainder byte does; the constant of R100 is that
polynomial, aligned to bit 23. -/
def Obligations.CrcIsTheRemainderModuloThePolynomial : Prop :=
  (∀ v : U16, (crcStart v).poly = 0x131 <<< 15) ∧
  ∀ (v : U16) (b : Byte),
    (∃ q : U16, timesP q ^^^ b.setWidth 24 = v.setWidth 24 <<< 8) ↔ b = crc8 v

/-- R104: the byte-wise form and the table form. -/
def Obligations.CrcEqualsItsBytewiseForm : Prop :=
  ∀ v : U16, crc8 v = crc8Bytewise v ∧
    crc8 v = crcTable (crcTable (v.extractLsb' 8 8) ^^^ v.extractLsb' 0 8)

/-- R105: the algebraic laws. -/
def Obligations.CrcIsLinearAndDeterminedByItsBits : Prop :=
  crc8 0x0000 = 0x00 ∧ (∀ a b : U16, crc8 (a ^^^ b) = crc8 a ^^^ crc8 b) ∧
  (∀ v : U16, crc8 v =
    (List.range 16).foldl (fun acc i => if v.getLsbD i then acc ^^^ crc8 (1 <<< i) else acc) 0) ∧
  crc8 0x0031 = 0xF4 ∧ crc8 0x0100 = 0xF4

/-! ### Conversion (42_conversion.md) -/

/-- R7: `rne32` rounds an exact rational to a nearest binary32 value, ties to even.  Values are counted
in units of `2 ^ -149`, and the distances multiplied by the denominator.  The binary32 patterns
themselves, subnormals among them, are from general knowledge (log entry 13, PRESUMED). -/
def Obligations.RoundingIsToNearestTiesToEven : Prop :=
  ∀ (num : Int) (den : Nat) (b : U32), 0 < den →
    (rne32 num den).toNat % 2 ^ 31 < 0x7F800000 → b.toNat % 2 ^ 31 < 0x7F800000 →
    (unitsOf (rne32 num den) * den - num * 2 ^ 149).natAbs ≤
      (unitsOf b * den - num * 2 ^ 149).natAbs ∧
    (unitsOf b ≠ unitsOf (rne32 num den) →
      (unitsOf (rne32 num den) * den - num * 2 ^ 149).natAbs =
        (unitsOf b * den - num * 2 ^ 149).natAbs →
      (rne32 num den).getLsbD 0 = false)

/-- R186: the exact values at the multiples of `0x3333`, and the two `F32_STEPWISE` values at
`0x9999`. -/
def Obligations.ConversionsOfTheFifthsAreExact : Prop :=
  tempC .exactRne 0x0000 = 0xC2200000 ∧ rhPct .exactRne 0x0000 = 0x00000000 ∧
  tempC .exactRne 0x3333 = 0xC0E00000 ∧ rhPct .exactRne 0x3333 = 0x41A00000 ∧
  tempC .exactRne 0x6666 = 0x41D00000 ∧ rhPct .exactRne 0x6666 = 0x42200000 ∧
  tempC .exactRne 0x9999 = 0x426C0000 ∧ rhPct .exactRne 0x9999 = 0x42700000 ∧
  tempC .exactRne 0xCCCC = 0x42B80000 ∧ rhPct .exactRne 0xCCCC = 0x42A00000 ∧
  tempC .exactRne 0xFFFF = 0x42FA0000 ∧ rhPct .exactRne 0xFFFF = 0x42C80000 ∧
  tempC .f32Stepwise 0x9999 = 0x426C0002 ∧ rhPct .f32Stepwise 0x9999 = 0x42700001

/-- R184: under `EXACT_RNE` both conversions are non-decreasing, within the ranges of R184; `tempC` is
never a zero, its smallest magnitude is at 15887; `rhPct` is +0.0 only at 0; every nonzero output is a
normal number. -/
def Obligations.ConversionRangesAndMonotonicity : Prop :=
  (∀ a b : U16, a.toNat ≤ b.toNat →
    unitsOf (tempC .exactRne a) ≤ unitsOf (tempC .exactRne b) ∧
    unitsOf (rhPct .exactRne a) ≤ unitsOf (rhPct .exactRne b)) ∧
  tempC .exactRne 0 = 0xC2200000 ∧ tempC .exactRne 0xFFFF = 0x42FA0000 ∧
  rhPct .exactRne 0 = 0x00000000 ∧ rhPct .exactRne 0xFFFF = 0x42C80000 ∧
  tempC .exactRne 15887 = 0xBA3400B4 ∧
  ∀ a : U16,
    165 * a.toNat ≠ 2621400 ∧
    (unitsOf (tempC .exactRne 15887)).natAbs ≤ (unitsOf (tempC .exactRne a)).natAbs ∧
    0 < (tempC .exactRne a).extractLsb' 23 8 ∧ (tempC .exactRne a).extractLsb' 23 8 < 255 ∧
    (a ≠ 0 → 0 < (rhPct .exactRne a).extractLsb' 23 8 ∧
      (rhPct .exactRne a).extractLsb' 23 8 < 255 ∧ (rhPct .exactRne a).getLsbD 31 = false)

/-! ### The model's own interface -/

/-- Log entry 9 (the model's choice, no rule of the spec): an encoded instruction that is placed is
what the very next step runs. -/
def Obligations.PlacedInstructionRunsNext : Prop :=
  ∀ (s : State) (i : Instr),
    (∀ w, encode i = .req24 w →
      step (place (.req24 w) s) = exec i { s with busy := false, phase := .idle }) ∧
    (∀ b, encode i = .wire8 b → step (place (.wire8 b) s) = exec i (place (.wire8 b) s))

/-! ### The host (30_encoding.md R84) -/

/-- R35, R63, R212: a host that lets a step of the block pass and then reads sees the state after that
step, transient values of `SEQ_STATE` and `BUSY == 1` included.  The act `pass` is the model's choice
(log entry 12). -/
def Obligations.HostReadsBetweenStepsSeeTheLastCompletedStep : Prop :=
  ∀ (h : Hosted) (t : State) (idx : BitVec 3) (rest : List HostAct),
    h.acts = .pass :: .rd idx :: rest → step h.block = .next t →
    ∃ h1, hostedStep h = .next h1 ∧
      hostedStep h1 = .next { acts := rest, reads := hostRead idx t :: h.reads, block := t }

/-- R120, R244: a host holds its request while the block is busy, or while an earlier one is not yet
taken, and the block steps meanwhile; otherwise it presents it.  That the block steps while the host
holds the request is the model's choice (log entry 12). -/
def Obligations.HostHoldsItsRequestWhileTheBlockIsBusy : Prop :=
  ∀ (h : Hosted) (w : Req) (rest : List HostAct), h.acts = .present w :: rest →
    (h.block.busy = false → h.block.reqs = [] →
      hostedStep h = .next { h with acts := rest, block := { h.block with reqs := [w] } }) ∧
    (h.block.busy = true ∨ h.block.reqs ≠ [] → ∀ t, step h.block = .next t →
      hostedStep h = .next { h with block := t })
end

