-- ==== Sys2Proof/Laws/Convert.lean ====
section
/-! SUPPORT. First facts about rounding: the pattern of a magnitude is at most infinity's, zero rounds to zero, and the sign of the result is the sign of the value. -/

namespace Sys2Proof
namespace Laws

open Machine

theorem roundMagnitude_le (num den : Nat) : roundMagnitude num den ≤ 0x7F800000 :=
  Nat.min_le_right _ _

theorem roundMagnitude_zero (den : Nat) : roundMagnitude 0 den = 0 := by
  simp [roundMagnitude]

/-- The pattern of a value below zero is its magnitude's with the sign bit set. -/
theorem rne32_toNat_neg {num : Int} (h : num < 0) (den : Nat) :
    (rne32 num den).toNat = 2 ^ 31 + roundMagnitude num.natAbs den := by
  have := roundMagnitude_le num.natAbs den
  rw [rne32, if_pos h, BitVec.toNat_ofNat, Nat.mod_eq_of_lt (by omega)]

/-- The pattern of a value not below zero is its magnitude's. -/
theorem rne32_toNat_nonneg {num : Int} (h : ¬num < 0) (den : Nat) :
    (rne32 num den).toNat = roundMagnitude num.natAbs den := by
  have := roundMagnitude_le num.natAbs den
  rw [rne32, if_neg h, BitVec.toNat_ofNat, Nat.mod_eq_of_lt (by omega)]

theorem unitsOf_zero : unitsOf 0 = 0 := by decide

end Laws
end Sys2Proof
end

