-- ==== Sys2Proof/Laws/Crc.lean ====
section
/-! SUPPORT. The loop of R100 as its 16 rounds. -/

namespace Sys2Proof
namespace Laws

open Machine

/-- A round shifts the three constants and does not look at them otherwise (R100). -/
theorem crcRound_msb (r : CrcRegs) : (crcRound r).msb = r.msb >>> 1 := rfl
theorem crcRound_poly (r : CrcRegs) : (crcRound r).poly = r.poly >>> 1 := rfl
theorem crcRound_mask (r : CrcRegs) : (crcRound r).mask = r.mask >>> 1 := rfl

/-- While `msb` is not yet `0x80`, the loop runs a round. -/
theorem crcLoop_round {n : Nat} {r : CrcRegs} (h : r.msb ≠ 0x000080) :
    crcLoop (n + 1) r = crcLoop n (crcRound r) := if_neg h

/-- Once `msb` is `0x80`, the loop has stopped. -/
theorem crcLoop_stop {n : Nat} {r : CrcRegs} (h : r.msb = 0x000080) : crcLoop n r = r := by
  cases n with
  | zero => rfl
  | succ n => exact if_pos h

/-- `msb` after some rounds. -/
theorem iterate_msb (n : Nat) (r : CrcRegs) : (crcRound^[n] r).msb = r.msb >>> n := by
  induction n with
  | zero => simp
  | succ n ih => rw [Function.iterate_succ_apply', crcRound_msb, ih, BitVec.shiftRight_add]

/-- The loop runs exactly 16 rounds (R100). -/
theorem crc8_eq_rounds (v : U16) :
    crc8 v = (crcRound^[16] (crcStart v)).result.setWidth 8 := by
  have run : ∀ k, k ≤ 16 → crcLoop 24 (crcStart v) = crcLoop (24 - k) (crcRound^[k] (crcStart v)) := by
    intro k
    induction k with
    | zero => intro _; rfl
    | succ k ih =>
      intro hk
      rw [ih (by omega), show 24 - k = (24 - (k + 1)) + 1 by omega, crcLoop_round,
        Function.iterate_succ_apply']
      have hk' : k < 16 := by omega
      rw [iterate_msb, show (crcStart v).msb = 0x800000 from rfl]
      clear ih hk
      interval_cases k <;> decide
  unfold crc8
  rw [run 16 le_rfl, crcLoop_stop]
  rw [iterate_msb, show (crcStart v).msb = 0x800000 from rfl]
  decide

end Laws
end Sys2Proof
end

