-- ==== Sys2Proof/Laws/Driver.lean ====
section
/-! SUPPORT. What one move of the host does, said once: one lemma per act. -/

namespace Sys2Proof
namespace Laws

open Machine

/-- A step of the block that answers a next state passes it on and changes no read. -/
theorem letBlockStep_of_next {h : Hosted} {t : State} (acts : List HostAct)
    (ht : step h.block = .next t) :
    letBlockStep acts h = .next { h with acts := acts, block := t } := by
  simp [letBlockStep, ht]

/-- All that a step passed on can be. -/
theorem letBlockStep_next_inv {h h' : Hosted} {acts : List HostAct}
    (hh : letBlockStep acts h = .next h') :
    ∃ t, step h.block = .next t ∧ h' = { h with acts := acts, block := t } := by
  simp only [letBlockStep] at hh
  split at hh
  · next t ht => exact ⟨t, ht, by simpa using hh.symm⟩
  · cases hh
  · cases hh

theorem hostedStep_pass {h : Hosted} {rest : List HostAct} (ha : h.acts = .pass :: rest) :
    hostedStep h = letBlockStep rest h := by
  simp [hostedStep, ha]

theorem hostedStep_rd {h : Hosted} {idx : BitVec 3} {rest : List HostAct}
    (ha : h.acts = .rd idx :: rest) :
    hostedStep h = .next { h with acts := rest, reads := hostRead idx h.block :: h.reads } := by
  simp [hostedStep, ha]

/-- A request that may be presented is. -/
theorem hostedStep_present {h : Hosted} {w : Req} {rest : List HostAct}
    (ha : h.acts = .present w :: rest) (hp : hostMayPresent h.block) :
    hostedStep h = .next { h with acts := rest, block := { h.block with reqs := [w] } } := by
  simp [hostedStep, ha, hp.1, hp.2]

/-- A request that may not be presented yet is held. -/
theorem hostedStep_present_held {h : Hosted} {w : Req} {rest : List HostAct}
    (ha : h.acts = .present w :: rest) (hp : ¬hostMayPresent h.block) :
    hostedStep h = letBlockStep h.acts h := by
  rw [hostedStep]
  simp only [ha, if_neg hp]

end Laws
end Sys2Proof
end

