-- ==== Sys2Proof/Laws/Encoding.lean ====
section
/-! SUPPORT. Small lemmas about the syntax and the encoding tables. -/

namespace Sys2Proof
namespace Laws

/-- Every instruction is well-formed: the operand types are the field widths (R71, R75). -/
theorem wellFormed_all (i : Instr) : i.wellFormed = true := by
  cases i with
  | heater on => cases on <;> decide
  | crc8 v => simp [Instr.wellFormed, Instr.fields?, ReqFields.wellFormed, ReqFields.opOk,
      ReqFields.rsvOk, ReqFields.heaterBitOk, ReqFields.immOk]
  | convT v => simp [Instr.wellFormed, Instr.fields?, ReqFields.wellFormed, ReqFields.opOk,
      ReqFields.rsvOk, ReqFields.heaterBitOk, ReqFields.immOk]
  | convRh v => simp [Instr.wellFormed, Instr.fields?, ReqFields.wellFormed, ReqFields.opOk,
      ReqFields.rsvOk, ReqFields.heaterBitOk, ReqFields.immOk]
  | _ => decide

/-- A command byte of the table is one of the six of R80. -/
theorem isCommandByte_iff (b : Byte) :
    isCommandByte b = true ↔
      b = cmdReset ∨ b = cmdStartConversion ∨ b = cmdReadSerial ∨ b = cmdReadTh ∨
        b = cmdHeaterOn ∨ b = cmdHeaterOff := by
  constructor
  · intro h
    by_contra hn
    simp only [not_or] at hn
    simp [isCommandByte, decodeWire, hn] at h
  · rintro (rfl | rfl | rfl | rfl | rfl | rfl) <;> decide

end Laws
end Sys2Proof
end

