-- ==== Sys2Proof/Laws/State.lean ====
section
/-! SUPPORT. One lemma per field for each shared update of the state, so that no later proof unfolds a record update. -/

namespace Sys2Proof
namespace Machine

/-! ### `endOp` -/

@[simp] theorem endOp_seqState (st : Status) (s : State) : (endOp st s).seqState = s.seqState := rfl
@[simp] theorem endOp_busy (st : Status) (s : State) : (endOp st s).busy = false := rfl
@[simp] theorem endOp_curOp (st : Status) (s : State) : (endOp st s).curOp = Config.freeCurOp s.draws := rfl
@[simp] theorem endOp_curArg (st : Status) (s : State) : (endOp st s).curArg = Config.freeCurArg s.draws := rfl
@[simp] theorem endOp_phase (st : Status) (s : State) : (endOp st s).phase = .idle := rfl
@[simp] theorem endOp_lastStatus (st : Status) (s : State) : (endOp st s).lastStatus = st := rfl
@[simp] theorem endOp_measValid (st : Status) (s : State) : (endOp st s).measValid = s.measValid := rfl
@[simp] theorem endOp_measT (st : Status) (s : State) : (endOp st s).measT = s.measT := rfl
@[simp] theorem endOp_measRh (st : Status) (s : State) : (endOp st s).measRh = s.measRh := rfl
@[simp] theorem endOp_measTs (st : Status) (s : State) : (endOp st s).measTs = s.measTs := rfl
@[simp] theorem endOp_result (st : Status) (s : State) : (endOp st s).result = s.result := rfl
@[simp] theorem endOp_rx (st : Status) (s : State) : (endOp st s).rx = s.rx := rfl
@[simp] theorem endOp_serial (st : Status) (s : State) : (endOp st s).serial = s.serial := rfl
@[simp] theorem endOp_cfg (st : Status) (s : State) : (endOp st s).cfg = s.cfg := rfl
@[simp] theorem endOp_reqs (st : Status) (s : State) : (endOp st s).reqs = s.reqs := rfl
@[simp] theorem endOp_acks (st : Status) (s : State) : (endOp st s).acks = s.acks := rfl
@[simp] theorem endOp_dones (st : Status) (s : State) : (endOp st s).dones = s.dones := rfl
@[simp] theorem endOp_replies4 (st : Status) (s : State) : (endOp st s).replies4 = s.replies4 := rfl
@[simp] theorem endOp_replies6 (st : Status) (s : State) : (endOp st s).replies6 = s.replies6 := rfl
@[simp] theorem endOp_nowMs (st : Status) (s : State) : (endOp st s).nowMs = s.nowMs := rfl
@[simp] theorem endOp_tpLog (st : Status) (s : State) : (endOp st s).tpLog = s.tpLog := rfl
@[simp] theorem endOp_draws (st : Status) (s : State) : (endOp st s).draws = s.draws + 1 := rfl

/-! ### `reject` -/

@[simp] theorem reject_seqState (st : Status) (s : State) : (reject st s).seqState = s.seqState := rfl
@[simp] theorem reject_busy (st : Status) (s : State) : (reject st s).busy = false := rfl
@[simp] theorem reject_curOp (st : Status) (s : State) : (reject st s).curOp = s.curOp := rfl
@[simp] theorem reject_curArg (st : Status) (s : State) : (reject st s).curArg = s.curArg := rfl
@[simp] theorem reject_phase (st : Status) (s : State) : (reject st s).phase = .idle := rfl
@[simp] theorem reject_lastStatus (st : Status) (s : State) : (reject st s).lastStatus = st := rfl
@[simp] theorem reject_measValid (st : Status) (s : State) : (reject st s).measValid = s.measValid := rfl
@[simp] theorem reject_measT (st : Status) (s : State) : (reject st s).measT = s.measT := rfl
@[simp] theorem reject_measRh (st : Status) (s : State) : (reject st s).measRh = s.measRh := rfl
@[simp] theorem reject_measTs (st : Status) (s : State) : (reject st s).measTs = s.measTs := rfl
@[simp] theorem reject_result (st : Status) (s : State) : (reject st s).result = s.result := rfl
@[simp] theorem reject_rx (st : Status) (s : State) : (reject st s).rx = s.rx := rfl
@[simp] theorem reject_serial (st : Status) (s : State) : (reject st s).serial = s.serial := rfl
@[simp] theorem reject_cfg (st : Status) (s : State) : (reject st s).cfg = s.cfg := rfl
@[simp] theorem reject_reqs (st : Status) (s : State) : (reject st s).reqs = s.reqs := rfl
@[simp] theorem reject_acks (st : Status) (s : State) : (reject st s).acks = s.acks := rfl
@[simp] theorem reject_dones (st : Status) (s : State) : (reject st s).dones = s.dones := rfl
@[simp] theorem reject_replies4 (st : Status) (s : State) : (reject st s).replies4 = s.replies4 := rfl
@[simp] theorem reject_replies6 (st : Status) (s : State) : (reject st s).replies6 = s.replies6 := rfl
@[simp] theorem reject_nowMs (st : Status) (s : State) : (reject st s).nowMs = s.nowMs := rfl
@[simp] theorem reject_tpLog (st : Status) (s : State) : (reject st s).tpLog = s.tpLog := rfl
@[simp] theorem reject_draws (st : Status) (s : State) : (reject st s).draws = s.draws := rfl

/-! ### `failOp` -/

@[simp] theorem failOp_seqState (st : Status) (q : SeqState) (s : State) : (failOp st q s).seqState = q := rfl
@[simp] theorem failOp_busy (st : Status) (q : SeqState) (s : State) : (failOp st q s).busy = false := rfl
@[simp] theorem failOp_curOp (st : Status) (q : SeqState) (s : State) : (failOp st q s).curOp = Config.freeCurOp s.draws := rfl
@[simp] theorem failOp_curArg (st : Status) (q : SeqState) (s : State) : (failOp st q s).curArg = Config.freeCurArg s.draws := rfl
@[simp] theorem failOp_phase (st : Status) (q : SeqState) (s : State) : (failOp st q s).phase = .idle := rfl
@[simp] theorem failOp_lastStatus (st : Status) (q : SeqState) (s : State) : (failOp st q s).lastStatus = st := rfl
@[simp] theorem failOp_measValid (st : Status) (q : SeqState) (s : State) : (failOp st q s).measValid = s.measValid := rfl
@[simp] theorem failOp_measT (st : Status) (q : SeqState) (s : State) : (failOp st q s).measT = s.measT := rfl
@[simp] theorem failOp_measRh (st : Status) (q : SeqState) (s : State) : (failOp st q s).measRh = s.measRh := rfl
@[simp] theorem failOp_measTs (st : Status) (q : SeqState) (s : State) : (failOp st q s).measTs = s.measTs := rfl
@[simp] theorem failOp_result (st : Status) (q : SeqState) (s : State) : (failOp st q s).result = s.result := rfl
@[simp] theorem failOp_rx (st : Status) (q : SeqState) (s : State) : (failOp st q s).rx = s.rx := rfl
@[simp] theorem failOp_serial (st : Status) (q : SeqState) (s : State) : (failOp st q s).serial = s.serial := rfl
@[simp] theorem failOp_cfg (st : Status) (q : SeqState) (s : State) : (failOp st q s).cfg = s.cfg := rfl
@[simp] theorem failOp_reqs (st : Status) (q : SeqState) (s : State) : (failOp st q s).reqs = s.reqs := rfl
@[simp] theorem failOp_acks (st : Status) (q : SeqState) (s : State) : (failOp st q s).acks = s.acks := rfl
@[simp] theorem failOp_dones (st : Status) (q : SeqState) (s : State) : (failOp st q s).dones = s.dones := rfl
@[simp] theorem failOp_replies4 (st : Status) (q : SeqState) (s : State) : (failOp st q s).replies4 = s.replies4 := rfl
@[simp] theorem failOp_replies6 (st : Status) (q : SeqState) (s : State) : (failOp st q s).replies6 = s.replies6 := rfl
@[simp] theorem failOp_nowMs (st : Status) (q : SeqState) (s : State) : (failOp st q s).nowMs = s.nowMs := rfl
@[simp] theorem failOp_tpLog (st : Status) (q : SeqState) (s : State) : (failOp st q s).tpLog = s.tpLog := rfl
@[simp] theorem failOp_draws (st : Status) (q : SeqState) (s : State) : (failOp st q s).draws = s.draws + 1 := rfl

/-! ### `accept` -/

@[simp] theorem accept_seqState (op : BitVec 3) (arg : BitVec 17) (first : Phase) (s : State) : (accept op arg first s).seqState = s.seqState := rfl
@[simp] theorem accept_busy (op : BitVec 3) (arg : BitVec 17) (first : Phase) (s : State) : (accept op arg first s).busy = true := rfl
@[simp] theorem accept_curOp (op : BitVec 3) (arg : BitVec 17) (first : Phase) (s : State) : (accept op arg first s).curOp = op := rfl
@[simp] theorem accept_curArg (op : BitVec 3) (arg : BitVec 17) (first : Phase) (s : State) : (accept op arg first s).curArg = arg := rfl
@[simp] theorem accept_phase (op : BitVec 3) (arg : BitVec 17) (first : Phase) (s : State) : (accept op arg first s).phase = first := rfl
@[simp] theorem accept_lastStatus (op : BitVec 3) (arg : BitVec 17) (first : Phase) (s : State) : (accept op arg first s).lastStatus = s.lastStatus := rfl
@[simp] theorem accept_measValid (op : BitVec 3) (arg : BitVec 17) (first : Phase) (s : State) : (accept op arg first s).measValid = s.measValid := rfl
@[simp] theorem accept_measT (op : BitVec 3) (arg : BitVec 17) (first : Phase) (s : State) : (accept op arg first s).measT = s.measT := rfl
@[simp] theorem accept_measRh (op : BitVec 3) (arg : BitVec 17) (first : Phase) (s : State) : (accept op arg first s).measRh = s.measRh := rfl
@[simp] theorem accept_measTs (op : BitVec 3) (arg : BitVec 17) (first : Phase) (s : State) : (accept op arg first s).measTs = s.measTs := rfl
@[simp] theorem accept_result (op : BitVec 3) (arg : BitVec 17) (first : Phase) (s : State) : (accept op arg first s).result = s.result := rfl
@[simp] theorem accept_rx (op : BitVec 3) (arg : BitVec 17) (first : Phase) (s : State) : (accept op arg first s).rx = s.rx := rfl
@[simp] theorem accept_serial (op : BitVec 3) (arg : BitVec 17) (first : Phase) (s : State) : (accept op arg first s).serial = s.serial := rfl
@[simp] theorem accept_cfg (op : BitVec 3) (arg : BitVec 17) (first : Phase) (s : State) : (accept op arg first s).cfg = s.cfg := rfl
@[simp] theorem accept_reqs (op : BitVec 3) (arg : BitVec 17) (first : Phase) (s : State) : (accept op arg first s).reqs = s.reqs := rfl
@[simp] theorem accept_acks (op : BitVec 3) (arg : BitVec 17) (first : Phase) (s : State) : (accept op arg first s).acks = s.acks := rfl
@[simp] theorem accept_dones (op : BitVec 3) (arg : BitVec 17) (first : Phase) (s : State) : (accept op arg first s).dones = s.dones := rfl
@[simp] theorem accept_replies4 (op : BitVec 3) (arg : BitVec 17) (first : Phase) (s : State) : (accept op arg first s).replies4 = s.replies4 := rfl
@[simp] theorem accept_replies6 (op : BitVec 3) (arg : BitVec 17) (first : Phase) (s : State) : (accept op arg first s).replies6 = s.replies6 := rfl
@[simp] theorem accept_nowMs (op : BitVec 3) (arg : BitVec 17) (first : Phase) (s : State) : (accept op arg first s).nowMs = s.nowMs := rfl
@[simp] theorem accept_tpLog (op : BitVec 3) (arg : BitVec 17) (first : Phase) (s : State) : (accept op arg first s).tpLog = s.tpLog := rfl
@[simp] theorem accept_draws (op : BitVec 3) (arg : BitVec 17) (first : Phase) (s : State) : (accept op arg first s).draws = s.draws := rfl

/-! ### `recordAnswer` -/

@[simp] theorem recordAnswer_seqState (a : Answer) (s : State) : (recordAnswer a s).seqState = s.seqState := rfl
@[simp] theorem recordAnswer_busy (a : Answer) (s : State) : (recordAnswer a s).busy = s.busy := rfl
@[simp] theorem recordAnswer_curOp (a : Answer) (s : State) : (recordAnswer a s).curOp = s.curOp := rfl
@[simp] theorem recordAnswer_curArg (a : Answer) (s : State) : (recordAnswer a s).curArg = s.curArg := rfl
@[simp] theorem recordAnswer_phase (a : Answer) (s : State) : (recordAnswer a s).phase = s.phase := rfl
@[simp] theorem recordAnswer_lastStatus (a : Answer) (s : State) : (recordAnswer a s).lastStatus = s.lastStatus := rfl
@[simp] theorem recordAnswer_measValid (a : Answer) (s : State) : (recordAnswer a s).measValid = s.measValid := rfl
@[simp] theorem recordAnswer_measT (a : Answer) (s : State) : (recordAnswer a s).measT = s.measT := rfl
@[simp] theorem recordAnswer_measRh (a : Answer) (s : State) : (recordAnswer a s).measRh = s.measRh := rfl
@[simp] theorem recordAnswer_measTs (a : Answer) (s : State) : (recordAnswer a s).measTs = s.measTs := rfl
@[simp] theorem recordAnswer_result (a : Answer) (s : State) : (recordAnswer a s).result = s.result := rfl
@[simp] theorem recordAnswer_rx (a : Answer) (s : State) : (recordAnswer a s).rx = s.rx := rfl
@[simp] theorem recordAnswer_serial (a : Answer) (s : State) : (recordAnswer a s).serial = s.serial := rfl
@[simp] theorem recordAnswer_cfg (a : Answer) (s : State) : (recordAnswer a s).cfg = s.cfg := rfl
@[simp] theorem recordAnswer_reqs (a : Answer) (s : State) : (recordAnswer a s).reqs = s.reqs := rfl
@[simp] theorem recordAnswer_acks (a : Answer) (s : State) : (recordAnswer a s).acks = s.acks := rfl
@[simp] theorem recordAnswer_dones (a : Answer) (s : State) : (recordAnswer a s).dones = s.dones := rfl
@[simp] theorem recordAnswer_replies4 (a : Answer) (s : State) : (recordAnswer a s).replies4 = s.replies4 := rfl
@[simp] theorem recordAnswer_replies6 (a : Answer) (s : State) : (recordAnswer a s).replies6 = s.replies6 := rfl
@[simp] theorem recordAnswer_nowMs (a : Answer) (s : State) : (recordAnswer a s).nowMs = s.nowMs := rfl
@[simp] theorem recordAnswer_tpLog (a : Answer) (s : State) : (recordAnswer a s).tpLog = .answered a :: s.tpLog := rfl
@[simp] theorem recordAnswer_draws (a : Answer) (s : State) : (recordAnswer a s).draws = s.draws := rfl

/-! ### `takeRequest` -/

@[simp] theorem takeRequest_seqState (s : State) : (takeRequest s).seqState = s.seqState := rfl
@[simp] theorem takeRequest_busy (s : State) : (takeRequest s).busy = s.busy := rfl
@[simp] theorem takeRequest_curOp (s : State) : (takeRequest s).curOp = s.curOp := rfl
@[simp] theorem takeRequest_curArg (s : State) : (takeRequest s).curArg = s.curArg := rfl
@[simp] theorem takeRequest_phase (s : State) : (takeRequest s).phase = s.phase := rfl
@[simp] theorem takeRequest_lastStatus (s : State) : (takeRequest s).lastStatus = s.lastStatus := rfl
@[simp] theorem takeRequest_measValid (s : State) : (takeRequest s).measValid = s.measValid := rfl
@[simp] theorem takeRequest_measT (s : State) : (takeRequest s).measT = s.measT := rfl
@[simp] theorem takeRequest_measRh (s : State) : (takeRequest s).measRh = s.measRh := rfl
@[simp] theorem takeRequest_measTs (s : State) : (takeRequest s).measTs = s.measTs := rfl
@[simp] theorem takeRequest_result (s : State) : (takeRequest s).result = s.result := rfl
@[simp] theorem takeRequest_rx (s : State) : (takeRequest s).rx = s.rx := rfl
@[simp] theorem takeRequest_serial (s : State) : (takeRequest s).serial = s.serial := rfl
@[simp] theorem takeRequest_cfg (s : State) : (takeRequest s).cfg = s.cfg := rfl
@[simp] theorem takeRequest_reqs (s : State) : (takeRequest s).reqs = s.reqs.tail := rfl
@[simp] theorem takeRequest_acks (s : State) : (takeRequest s).acks = s.acks := rfl
@[simp] theorem takeRequest_dones (s : State) : (takeRequest s).dones = s.dones := rfl
@[simp] theorem takeRequest_replies4 (s : State) : (takeRequest s).replies4 = s.replies4 := rfl
@[simp] theorem takeRequest_replies6 (s : State) : (takeRequest s).replies6 = s.replies6 := rfl
@[simp] theorem takeRequest_nowMs (s : State) : (takeRequest s).nowMs = s.nowMs := rfl
@[simp] theorem takeRequest_tpLog (s : State) : (takeRequest s).tpLog = s.tpLog := rfl
@[simp] theorem takeRequest_draws (s : State) : (takeRequest s).draws = s.draws := rfl

/-! ### `issue` -/

@[simp] theorem issue_seqState (t : Transaction) (s : State) : (issue t s).seqState = s.seqState := by unfold issue; split <;> rfl
@[simp] theorem issue_busy (t : Transaction) (s : State) : (issue t s).busy = s.busy := by unfold issue; split <;> rfl
@[simp] theorem issue_curOp (t : Transaction) (s : State) : (issue t s).curOp = s.curOp := by unfold issue; split <;> rfl
@[simp] theorem issue_curArg (t : Transaction) (s : State) : (issue t s).curArg = s.curArg := by unfold issue; split <;> rfl
@[simp] theorem issue_phase (t : Transaction) (s : State) : (issue t s).phase = s.phase := by unfold issue; split <;> rfl
@[simp] theorem issue_lastStatus (t : Transaction) (s : State) : (issue t s).lastStatus = s.lastStatus := by unfold issue; split <;> rfl
@[simp] theorem issue_measValid (t : Transaction) (s : State) : (issue t s).measValid = s.measValid := by unfold issue; split <;> rfl
@[simp] theorem issue_measT (t : Transaction) (s : State) : (issue t s).measT = s.measT := by unfold issue; split <;> rfl
@[simp] theorem issue_measRh (t : Transaction) (s : State) : (issue t s).measRh = s.measRh := by unfold issue; split <;> rfl
@[simp] theorem issue_measTs (t : Transaction) (s : State) : (issue t s).measTs = s.measTs := by unfold issue; split <;> rfl
@[simp] theorem issue_result (t : Transaction) (s : State) : (issue t s).result = s.result := by unfold issue; split <;> rfl
@[simp] theorem issue_rx (t : Transaction) (s : State) : (issue t s).rx = s.rx := by unfold issue; split <;> rfl
@[simp] theorem issue_serial (t : Transaction) (s : State) : (issue t s).serial = s.serial := by unfold issue; split <;> rfl
@[simp] theorem issue_cfg (t : Transaction) (s : State) : (issue t s).cfg = s.cfg := by unfold issue; split <;> rfl
@[simp] theorem issue_reqs (t : Transaction) (s : State) : (issue t s).reqs = s.reqs := by unfold issue; split <;> rfl
@[simp] theorem issue_acks (t : Transaction) (s : State) : (issue t s).acks = s.acks := by unfold issue; split <;> rfl
@[simp] theorem issue_dones (t : Transaction) (s : State) : (issue t s).dones = s.dones := by unfold issue; split <;> rfl
@[simp] theorem issue_replies4 (t : Transaction) (s : State) : (issue t s).replies4 = s.replies4 := by unfold issue; split <;> rfl
@[simp] theorem issue_replies6 (t : Transaction) (s : State) : (issue t s).replies6 = s.replies6 := by unfold issue; split <;> rfl
@[simp] theorem issue_nowMs (t : Transaction) (s : State) : (issue t s).nowMs = s.nowMs := by unfold issue; split <;> rfl
@[simp] theorem issue_draws (t : Transaction) (s : State) : (issue t s).draws = s.draws := by unfold issue; split <;> rfl

/-! ### `sampledNow` -/

@[simp] theorem sampledNow_seqState (s : State) : (sampledNow s).seqState = s.seqState := by unfold sampledNow; split <;> rfl
@[simp] theorem sampledNow_busy (s : State) : (sampledNow s).busy = s.busy := by unfold sampledNow; split <;> rfl
@[simp] theorem sampledNow_curOp (s : State) : (sampledNow s).curOp = s.curOp := by unfold sampledNow; split <;> rfl
@[simp] theorem sampledNow_curArg (s : State) : (sampledNow s).curArg = s.curArg := by unfold sampledNow; split <;> rfl
@[simp] theorem sampledNow_phase (s : State) : (sampledNow s).phase = s.phase := by unfold sampledNow; split <;> rfl
@[simp] theorem sampledNow_lastStatus (s : State) : (sampledNow s).lastStatus = s.lastStatus := by unfold sampledNow; split <;> rfl
@[simp] theorem sampledNow_measValid (s : State) : (sampledNow s).measValid = s.measValid := by unfold sampledNow; split <;> rfl
@[simp] theorem sampledNow_measT (s : State) : (sampledNow s).measT = s.measT := by unfold sampledNow; split <;> rfl
@[simp] theorem sampledNow_measRh (s : State) : (sampledNow s).measRh = s.measRh := by unfold sampledNow; split <;> rfl
@[simp] theorem sampledNow_measTs (s : State) : (sampledNow s).measTs = s.measTs := by unfold sampledNow; split <;> rfl
@[simp] theorem sampledNow_result (s : State) : (sampledNow s).result = s.result := by unfold sampledNow; split <;> rfl
@[simp] theorem sampledNow_rx (s : State) : (sampledNow s).rx = s.rx := by unfold sampledNow; split <;> rfl
@[simp] theorem sampledNow_serial (s : State) : (sampledNow s).serial = s.serial := by unfold sampledNow; split <;> rfl
@[simp] theorem sampledNow_cfg (s : State) : (sampledNow s).cfg = s.cfg := by unfold sampledNow; split <;> rfl
@[simp] theorem sampledNow_reqs (s : State) : (sampledNow s).reqs = s.reqs := by unfold sampledNow; split <;> rfl
@[simp] theorem sampledNow_acks (s : State) : (sampledNow s).acks = s.acks := by unfold sampledNow; split <;> rfl
@[simp] theorem sampledNow_dones (s : State) : (sampledNow s).dones = s.dones := by unfold sampledNow; split <;> rfl
@[simp] theorem sampledNow_replies4 (s : State) : (sampledNow s).replies4 = s.replies4 := by unfold sampledNow; split <;> rfl
@[simp] theorem sampledNow_replies6 (s : State) : (sampledNow s).replies6 = s.replies6 := by unfold sampledNow; split <;> rfl
@[simp] theorem sampledNow_tpLog (s : State) : (sampledNow s).tpLog = s.tpLog := by unfold sampledNow; split <;> rfl

/-! ### The fields that `issue` and `sampledNow` compute -/

theorem issue_tpLog (t : Transaction) (s : State) :
    (issue t s).tpLog = if outstanding s = some t then s.tpLog else .sent t :: s.tpLog := by
  unfold issue; split <;> rfl

theorem sampledNow_nowMs (s : State) : (sampledNow s).nowMs = s.nowMs.tail := by
  unfold sampledNow; split <;> simp_all

theorem sampledNow_draws (s : State) :
    (sampledNow s).draws = if s.nowMs = [] then s.draws + 1 else s.draws := by
  unfold sampledNow; split <;> simp_all

end Machine
end Sys2Proof
end

