-- ==== Sys2Proof/Laws/Word.lean ====
section
/-! SUPPORT. Concatenation of words as arithmetic (00_scope.md R6: `a ++ b` has `a` in the high bits). -/

namespace Sys2Proof
namespace Laws

theorem append_toNat {m n : Nat} (a : BitVec m) (b : BitVec n) :
    (a ++ b).toNat = a.toNat * 2 ^ n + b.toNat := by
  rw [BitVec.toNat_append, ← Nat.shiftLeft_add_eq_or_of_lt b.isLt, Nat.shiftLeft_eq]

/-- The low field of a concatenation. -/
theorem extract_low {m n : Nat} (a : BitVec m) (b : BitVec n) :
    (a ++ b).extractLsb' 0 n = b := by
  apply BitVec.eq_of_toNat_eq
  rw [BitVec.extractLsb'_toNat, append_toNat, Nat.shiftRight_zero, Nat.mul_add_mod_self_right,
    Nat.mod_eq_of_lt b.isLt]

/-- The high field of a concatenation. -/
theorem extract_high {m n : Nat} (a : BitVec m) (b : BitVec n) :
    (a ++ b).extractLsb' n m = a := by
  apply BitVec.eq_of_toNat_eq
  rw [BitVec.extractLsb'_toNat, append_toNat, Nat.shiftRight_eq_div_pow, Nat.add_comm,
    Nat.add_mul_div_right _ _ (Nat.two_pow_pos n), Nat.div_eq_of_lt b.isLt, Nat.zero_add,
    Nat.mod_eq_of_lt a.isLt]

end Laws
end Sys2Proof
end

