-- ==== Sys2Proof/Laws/Ops.lean ====
section
/-! SUPPORT. One spec lemma per shared operation: what each transport primitive and the acceptance step can answer, said once. -/

namespace Sys2Proof
namespace Machine

/-! ### Issuing -/

/-- Once issued, a transaction is the outstanding one. -/
theorem outstanding_issue (t : Transaction) (s : State) : outstanding (issue t s) = some t := by
  unfold issue
  split
  · assumption
  · rfl

/-- A step that waits does not issue its transaction again (R54, R60). -/
theorem issue_of_outstanding {t : Transaction} {s : State} (h : outstanding s = some t) :
    issue t s = s := if_pos h

theorem issue_idem (t : Transaction) (s : State) : issue t (issue t s) = issue t s :=
  issue_of_outstanding (outstanding_issue t s)

/-- The conversation after issuing starts with the transaction. -/
theorem issue_tpLog_head (t : Transaction) (s : State) :
    ∃ h, (issue t s).tpLog = .sent t :: h ∧ (h = s.tpLog ∨ s.tpLog = .sent t :: h) := by
  by_cases hs : outstanding s = some t
  · rw [issue_of_outstanding hs]
    unfold outstanding at hs
    split at hs
    · rename_i u h hl
      obtain rfl : u = t := by simpa using hs
      exact ⟨h, hl, .inr hl⟩
    · simp at hs
  · exact ⟨s.tpLog, by rw [issue_tpLog, if_neg hs], .inl rfl⟩

/-! ### The transport primitives -/

theorem tpWrite_waits {s : State} (h : s.acks = []) (cmd : Byte) (f g : State → State) :
    tpWrite cmd f g s = issue (.write cmd) s := by
  simp [tpWrite, h]

theorem tpWrite_acked {s : State} {rest : List Bool} (h : s.acks = true :: rest) (cmd : Byte)
    (f g : State → State) :
    tpWrite cmd f g s =
      f (recordAnswer (.ack true) { issue (.write cmd) s with acks := rest }) := by
  simp [tpWrite, h]

theorem tpWrite_nacked {s : State} {rest : List Bool} (h : s.acks = false :: rest) (cmd : Byte)
    (f g : State → State) :
    tpWrite cmd f g s =
      g (recordAnswer (.ack false) { issue (.write cmd) s with acks := rest }) := by
  simp [tpWrite, h]

theorem tpDelay_waits {s : State} (h : s.dones = 0) (ms : BitVec 16) (f : State → State) :
    tpDelay ms f s = issue (.delay ms) s := by
  simp [tpDelay, h]

theorem tpDelay_done {s : State} {n : Nat} (h : s.dones = n + 1) (ms : BitVec 16)
    (f : State → State) :
    tpDelay ms f s = f (recordAnswer .done { issue (.delay ms) s with dones := n }) := by
  simp [tpDelay, h]

theorem tpRead4_waits {s : State} (h : s.replies4 = []) (cmd : Byte) (f : State → State)
    (g : Reply4 → State → State) : tpRead4 cmd f g s = issue (.read cmd 4) s := by
  simp [tpRead4, h]

theorem tpRead4_fails {s : State} {rest : List (Option Reply4)} (h : s.replies4 = none :: rest)
    (cmd : Byte) (f : State → State) (g : Reply4 → State → State) :
    tpRead4 cmd f g s =
      f (recordAnswer .fail { issue (.read cmd 4) s with replies4 := rest }) := by
  simp [tpRead4, h]

theorem tpRead4_bytes {s : State} {r : Reply4} {rest : List (Option Reply4)}
    (h : s.replies4 = some r :: rest) (cmd : Byte) (f : State → State)
    (g : Reply4 → State → State) :
    tpRead4 cmd f g s =
      g r (recordAnswer (.bytes4 r) { issue (.read cmd 4) s with replies4 := rest }) := by
  simp [tpRead4, h]

theorem tpRead6_waits {s : State} (h : s.replies6 = []) (cmd : Byte) (f : State → State)
    (g : Reply6 → State → State) : tpRead6 cmd f g s = issue (.read cmd 6) s := by
  simp [tpRead6, h]

theorem tpRead6_fails {s : State} {rest : List (Option Reply6)} (h : s.replies6 = none :: rest)
    (cmd : Byte) (f : State → State) (g : Reply6 → State → State) :
    tpRead6 cmd f g s =
      f (recordAnswer .fail { issue (.read cmd 6) s with replies6 := rest }) := by
  simp [tpRead6, h]

theorem tpRead6_bytes {s : State} {r : Reply6} {rest : List (Option Reply6)}
    (h : s.replies6 = some r :: rest) (cmd : Byte) (f : State → State)
    (g : Reply6 → State → State) :
    tpRead6 cmd f g s =
      g r (recordAnswer (.bytes6 r) { issue (.read cmd 6) s with replies6 := rest }) := by
  simp [tpRead6, h]

/-- A write has three outcomes: it waits, it is acknowledged, or it is not. -/
theorem tpWrite_cases {cmd : Byte} {f g : State → State} {s t : State}
    (h : tpWrite cmd f g s = t) :
    (s.acks = [] ∧ t = issue (.write cmd) s) ∨
    (∃ rest, s.acks = true :: rest ∧
      t = f (recordAnswer (.ack true) { issue (.write cmd) s with acks := rest })) ∨
    (∃ rest, s.acks = false :: rest ∧
      t = g (recordAnswer (.ack false) { issue (.write cmd) s with acks := rest })) := by
  subst h
  match ha : s.acks with
  | [] => exact .inl ⟨rfl, tpWrite_waits ha ..⟩
  | true :: rest => exact .inr (.inl ⟨rest, rfl, tpWrite_acked ha ..⟩)
  | false :: rest => exact .inr (.inr ⟨rest, rfl, tpWrite_nacked ha ..⟩)

/-- A delay waits or is done. -/
theorem tpDelay_cases {ms : BitVec 16} {f : State → State} {s t : State}
    (h : tpDelay ms f s = t) :
    (s.dones = 0 ∧ t = issue (.delay ms) s) ∨
    (∃ n, s.dones = n + 1 ∧
      t = f (recordAnswer .done { issue (.delay ms) s with dones := n })) := by
  subst h
  match ha : s.dones with
  | 0 => exact .inl ⟨rfl, tpDelay_waits ha ..⟩
  | n + 1 => exact .inr ⟨n, rfl, tpDelay_done ha ..⟩

/-- A 4-byte read waits, fails or answers its bytes. -/
theorem tpRead4_cases {cmd : Byte} {f : State → State} {g : Reply4 → State → State} {s t : State}
    (h : tpRead4 cmd f g s = t) :
    (s.replies4 = [] ∧ t = issue (.read cmd 4) s) ∨
    (∃ rest, s.replies4 = none :: rest ∧
      t = f (recordAnswer .fail { issue (.read cmd 4) s with replies4 := rest })) ∨
    (∃ r rest, s.replies4 = some r :: rest ∧
      t = g r (recordAnswer (.bytes4 r) { issue (.read cmd 4) s with replies4 := rest })) := by
  subst h
  match ha : s.replies4 with
  | [] => exact .inl ⟨rfl, tpRead4_waits ha ..⟩
  | none :: rest => exact .inr (.inl ⟨rest, rfl, tpRead4_fails ha ..⟩)
  | some r :: rest => exact .inr (.inr ⟨r, rest, rfl, tpRead4_bytes ha ..⟩)

/-- A 6-byte read waits, fails or answers its bytes. -/
theorem tpRead6_cases {cmd : Byte} {f : State → State} {g : Reply6 → State → State} {s t : State}
    (h : tpRead6 cmd f g s = t) :
    (s.replies6 = [] ∧ t = issue (.read cmd 6) s) ∨
    (∃ rest, s.replies6 = none :: rest ∧
      t = f (recordAnswer .fail { issue (.read cmd 6) s with replies6 := rest })) ∨
    (∃ r rest, s.replies6 = some r :: rest ∧
      t = g r (recordAnswer (.bytes6 r) { issue (.read cmd 6) s with replies6 := rest })) := by
  subst h
  match ha : s.replies6 with
  | [] => exact .inl ⟨rfl, tpRead6_waits ha ..⟩
  | none :: rest => exact .inr (.inl ⟨rest, rfl, tpRead6_fails ha ..⟩)
  | some r :: rest => exact .inr (.inr ⟨r, rest, rfl, tpRead6_bytes ha ..⟩)

/-! ### Acceptance -/

/-- An idle block takes a valid request (R120). -/
theorem request_accepted {op : BitVec 3} {s : State} (hp : s.phase = .idle) (hb : s.busy = false)
    (hv : validIn op s.seqState = true) (arg : BitVec 17) (first : Phase) :
    request op arg first s = .next (accept op arg first s) := by
  simp [request, hp, hb, hv]

/-- An idle block rejects a request that is not valid in its state (R123). -/
theorem request_rejected {op : BitVec 3} {s : State} (hp : s.phase = .idle) (hb : s.busy = false)
    (hv : validIn op s.seqState = false) (arg : BitVec 17) (first : Phase) :
    request op arg first s = .next (reject .errState s) := by
  simp [request, hp, hb, hv]

/-- A block that is not idle takes no request (R244). -/
theorem request_busy {s : State} (h : ¬(s.phase = .idle ∧ s.busy = false)) (op : BitVec 3)
    (arg : BitVec 17) (first : Phase) :
    request op arg first s = .refused .requestWhileBusy := by
  simp only [request, if_neg h]

/-- Everything an acceptance step can answer. -/
theorem request_next {op : BitVec 3} {arg : BitVec 17} {first : Phase} {s t : State}
    (h : request op arg first s = .next t) :
    s.phase = .idle ∧ s.busy = false ∧
      ((validIn op s.seqState = true ∧ t = accept op arg first s) ∨
        (validIn op s.seqState = false ∧ t = reject .errState s)) := by
  unfold request at h
  split at h
  · rename_i hi
    refine ⟨hi.1, hi.2, ?_⟩
    split at h <;> simp_all
  · simp at h

/-! ### Operand packing -/

/-- `CUR_ARG[15:0]` is the operand that acceptance packed (R72). -/
theorem packArg_imm (h : Bool) (v : U16) : (packArg h v).extractLsb' 0 16 = v :=
  Laws.extract_low (BitVec.ofBool h) v

/-- `CUR_ARG[16]` is the heater bit that acceptance packed (R72). -/
theorem packArg_on (h : Bool) (v : U16) : (packArg h v).getLsbD 16 = h := by
  have hv := v.isLt
  have ha : (packArg h v).toNat = (BitVec.ofBool h).toNat * 2 ^ 16 + v.toNat :=
    Laws.append_toNat (BitVec.ofBool h) v
  rw [BitVec.getLsbD, Nat.testBit_eq_decide_div_mod_eq, ha]
  cases h <;> simp <;> omega

end Machine
end Sys2Proof
end

