-- ==== Sys2Proof/Laws/PerInstr.lean ====
section
/-! SUPPORT. The family `InItsRow`: the encoding of each instruction lies in its own row of spec/opcode_table.json, by that row's match and mask. -/

namespace Sys2Proof
namespace Laws
namespace InItsRow

/-- Whether an encoded instruction lies in a request row. -/
def inReqRow (e : Encoded) (pat mask : Req) : Prop :=
  match e with
  | .req24 w => w &&& mask = pat
  | .wire8 _ => False

/-- Whether an encoded instruction is a command byte. -/
def isByte (e : Encoded) (b : Byte) : Prop :=
  match e with
  | .req24 _ => False
  | .wire8 b' => b' = b

/-- The encoding of `i` lies in the row of its mnemonic. -/
def Statement (i : Instr) : Prop :=
  match i with
  | .begin => inReqRow (encode i) 0x000001 0xFFFFFF
  | .reset => inReqRow (encode i) 0x000002 0xFFFFFF
  | .measure => inReqRow (encode i) 0x000003 0xFFFFFF
  | .heater _ => inReqRow (encode i) 0x000004 0xFFFFF7
  | .crc8 _ => inReqRow (encode i) 0x000005 0x0000FF
  | .convT _ => inReqRow (encode i) 0x000006 0x0000FF
  | .convRh _ => inReqRow (encode i) 0x000007 0x0000FF
  | .wireReset => isByte (encode i) 0x1E
  | .wireStartConversion => isByte (encode i) 0x40
  | .wireReadSerial => isByte (encode i) 0x0A
  | .wireReadTh => isByte (encode i) 0x00
  | .wireHeaterOn => isByte (encode i) 0x04
  | .wireHeaterOff => isByte (encode i) 0x02

/-- The low byte of an operand word is the row's match. -/
theorem low_byte (v : U16) (b : BitVec 8) :
    (v ++ b : BitVec 24) &&& 0x0000FF = b.setWidth 24 := by
  apply BitVec.eq_of_toNat_eq
  have hm : (0x0000FF : BitVec 24).toNat = 2 ^ 8 - 1 := rfl
  have ha : (v ++ b : BitVec 24).toNat = v.toNat * 2 ^ 8 + b.toNat := append_toNat v b
  rw [BitVec.toNat_and, hm, Nat.and_two_pow_sub_one_eq_mod, ha, BitVec.toNat_setWidth]
  have := b.isLt
  omega

theorem begin : Statement .begin := rfl
theorem reset : Statement .reset := rfl
theorem measure : Statement .measure := rfl
theorem heater (on : Bool) : Statement (.heater on) := by cases on <;> rfl
theorem crc8 (v : U16) : Statement (.crc8 v) := low_byte v 0x05
theorem convT (v : U16) : Statement (.convT v) := low_byte v 0x06
theorem convRh (v : U16) : Statement (.convRh v) := low_byte v 0x07
theorem wireReset : Statement .wireReset := rfl
theorem wireStartConversion : Statement .wireStartConversion := rfl
theorem wireReadSerial : Statement .wireReadSerial := rfl
theorem wireReadTh : Statement .wireReadTh := rfl
theorem wireHeaterOn : Statement .wireHeaterOn := rfl
theorem wireHeaterOff : Statement .wireHeaterOff := rfl

end InItsRow
end Laws
end Sys2Proof
end

