-- ==== Sys2Proof/Laws/Step.lean ====
section
/-! SUPPORT. The inversion of a step: everything a step that answers a next state can have done, said once, so that a proof over all steps is a case analysis of it. -/

namespace Sys2Proof
namespace Machine

/-- What the acceptance step of a request word does to an idle block that has just taken it. -/
def AcceptanceOf (w : Req) (s t : State) : Prop :=
  (∃ r, decodeReq w = .error r ∧ t = reject .errIllegal s) ∨
  (∃ i, decodeReq w = .ok i ∧ exec i s = .next t)

/-- The step of a sequencer phase, as a function of the state. -/
def phaseStep (s : State) : Option State :=
  match s.phase with
  | .idle => none
  | .b1 => some (beginB1 s)
  | .b2 => some (beginB2 s)
  | .b3 => some (beginB3 s)
  | .b4 => some (beginB4 s)
  | .b5 => some (beginB5 s)
  | .r1 => some (resetR1 s)
  | .r2 => some (resetR2 s)
  | .r3 => some (resetR3 s)
  | .m1 => some (measureM1 s)
  | .m2 => some (measureM2 s)
  | .m3 => some (measureM3 s)
  | .m4 => some (measureM4 s)
  | .m5 => some (measureM5 s)
  | .m6 => some (measureM6 s)
  | .h1 => some (heaterH1 s)
  | .x1 =>
    if s.curOp = 5 then some (crc8X1 s)
    else if s.curOp = 6 then some (convTX1 s)
    else if s.curOp = 7 then some (convRhX1 s)
    else none

/-- Everything a step can do where it answers a next state: stay idle, take a request, or run the step
that `phase` names. -/
theorem step_cases {s t : State} (h : step s = .next t) :
    (s.phase = .idle ∧ s.busy = false ∧ s.reqs = [] ∧ t = s) ∨
    (∃ w rest, s.phase = .idle ∧ s.busy = false ∧ s.reqs = w :: rest ∧
      AcceptanceOf w (takeRequest s) t) ∨
    (s.phase ≠ .idle ∧ phaseStep s = some t) := by
  unfold step fetch at h
  cases hp : s.phase with
  | idle =>
    simp only [hp] at h
    cases hb : s.busy
    · cases hr : s.reqs with
      | nil => simp [hb, hr] at h; simp [h]
      | cons w rest =>
        simp only [hb, hr] at h
        refine .inr (.inl ⟨w, rest, rfl, rfl, rfl, ?_⟩)
        cases hd : decodeReq w with
        | ok i => simp [hd] at h; exact .inr ⟨i, hd, h⟩
        | error r => simp [hd] at h; exact .inl ⟨r, hd, h.symm⟩
    · simp [hb] at h
  | h1 =>
    cases ho : argOn s <;>
      simp_all [exec, execWireHeaterOn, execWireHeaterOff, phaseStep]
  | x1 =>
    simp only [hp, fetchX1] at h
    refine .inr (.inr ⟨by simp, ?_⟩)
    by_cases h5 : s.curOp = 5
    · simpa [h5, exec, execCrc8, hp, phaseStep] using h
    · by_cases h6 : s.curOp = 6
      · simpa [h6, exec, execConvT, hp, phaseStep] using h
      · by_cases h7 : s.curOp = 7
        · simpa [h7, exec, execConvRh, hp, phaseStep] using h
        · rw [if_neg h5, if_neg h6, if_neg h7] at h
          simp at h
  | _ =>
    simp_all [exec, execBegin, execReset, execMeasure, execWireReset, execWireStartConversion,
      execWireReadSerial, execWireReadTh, phaseStep]


/-- The first step of each operation the host may request (R120). -/
def FirstStep (op : BitVec 3) (first : Phase) : Prop :=
  (op = 1 ∧ first = .b1) ∨ (op = 2 ∧ first = .r1) ∨ (op = 3 ∧ first = .m1) ∨
    (op = 4 ∧ first = .h1) ∨ ((op = 5 ∨ op = 6 ∨ op = 7) ∧ first = .x1)

/-- Everything an instruction can do to an idle block: the block takes the operation up at its first
step, or rejects it with `ERR_STATE` (R120, R123). -/
theorem exec_idle {i : Instr} {s t : State} (hp : s.phase = .idle) (h : exec i s = .next t) :
    (∃ op arg first, FirstStep op first ∧ validIn op s.seqState = true ∧
      t = accept op arg first s) ∨
    t = reject .errState s := by
  have key : ∀ {op arg first}, FirstStep op first → request op arg first s = .next t →
      (∃ op arg first, FirstStep op first ∧ validIn op s.seqState = true ∧
        t = accept op arg first s) ∨ t = reject .errState s := by
    intro op arg first hf hr
    obtain ⟨-, -, ⟨hv, rfl⟩ | ⟨-, rfl⟩⟩ := request_next hr
    · exact .inl ⟨op, arg, first, hf, hv, rfl⟩
    · exact .inr rfl
  cases i with
  | begin => simp only [exec, execBegin, hp] at h; exact key (by simp [FirstStep]) h
  | reset => simp only [exec, execReset, hp] at h; exact key (by simp [FirstStep]) h
  | measure => simp only [exec, execMeasure, hp] at h; exact key (by simp [FirstStep]) h
  | heater on => simp only [exec, execHeater, hp] at h; exact key (by simp [FirstStep]) h
  | crc8 v => simp only [exec, execCrc8, hp] at h; exact key (by simp [FirstStep]) h
  | convT v => simp only [exec, execConvT, hp] at h; exact key (by simp [FirstStep]) h
  | convRh v => simp only [exec, execConvRh, hp] at h; exact key (by simp [FirstStep]) h
  | wireReset => simp [exec, execWireReset, hp] at h
  | wireStartConversion => simp [exec, execWireStartConversion, hp] at h
  | wireReadSerial => simp [exec, execWireReadSerial, hp] at h
  | wireReadTh => simp [exec, execWireReadTh, hp] at h
  | wireHeaterOn => simp [exec, execWireHeaterOn, hp] at h
  | wireHeaterOff => simp [exec, execWireHeaterOff, hp] at h

/-- Everything an acceptance step can do: take an operation up at its first step, or reject the word
and write the status alone (R120, R121, R123). -/
theorem acceptance_cases {w : Req} {s t : State} (hp : s.phase = .idle) (h : AcceptanceOf w s t) :
    (∃ op arg first, FirstStep op first ∧ validIn op s.seqState = true ∧
      t = accept op arg first s) ∨
    (∃ st, (st = .errState ∨ st = .errIllegal) ∧ t = reject st s) := by
  obtain ⟨r, -, rfl⟩ | ⟨i, -, hi⟩ := h
  · exact .inr ⟨_, .inr rfl, rfl⟩
  · obtain h | rfl := exec_idle hp hi
    · exact .inl h
    · exact .inr ⟨_, .inl rfl, rfl⟩

/-- A busy step is the step that `phase` names: the converse of the last case of `step_cases`. -/
theorem step_of_phaseStep {s t : State} (h : phaseStep s = some t) : step s = .next t := by
  cases hp : s.phase with
  | idle => simp [phaseStep, hp] at h
  | h1 =>
    cases ho : argOn s <;>
      simp_all [phaseStep, step, fetch, exec, execWireHeaterOn, execWireHeaterOff]
  | x1 =>
    simp only [phaseStep, hp] at h
    unfold step fetch fetchX1
    simp only [hp]
    by_cases h5 : s.curOp = 5
    · rw [if_pos h5] at h ⊢
      simpa [exec, execCrc8, hp, h5] using h
    · rw [if_neg h5] at h ⊢
      by_cases h6 : s.curOp = 6
      · rw [if_pos h6] at h ⊢
        simpa [exec, execConvT, hp, h6] using h
      · rw [if_neg h6] at h ⊢
        by_cases h7 : s.curOp = 7
        · rw [if_pos h7] at h ⊢
          simpa [exec, execConvRh, hp, h7] using h
        · rw [if_neg h7] at h
          cases h
  | _ =>
    simp_all [phaseStep, step, fetch, exec, execBegin, execReset, execMeasure, execWireReset,
      execWireStartConversion, execWireReadSerial, execWireReadTh]

/-! ### The busy step, case by case -/

/-- Everything one step of an operation in progress can do: it waits for its answer, or it does one of
the things the operation rules R101, R130, R140, R150, R160, R181 and R182 name. -/
inductive BusyStep (s : State) : State → Prop where
  | waits (x : Transaction) (hx : stepTransaction s = some x) : BusyStep s (issue x s)
  | b1Acked (rest : List Bool) (hp : s.phase = .b1) (ha : s.acks = true :: rest) :
      BusyStep s { recordAnswer (.ack true) { issue (.write 0x1E) s with acks := rest } with
        seqState := .reset, phase := .b2 }
  | b1Nacked (rest : List Bool) (hp : s.phase = .b1) (ha : s.acks = false :: rest) :
      BusyStep s (failOp .errTransport .uninit
        (recordAnswer (.ack false) { issue (.write 0x1E) s with acks := rest }))
  | b2Done (n : Nat) (hp : s.phase = .b2) (hd : s.dones = n + 1) :
      BusyStep s { recordAnswer .done { issue (.delay 15) s with dones := n } with phase := .b3 }
  | b3Failed (rest : List (Option Reply4)) (hp : s.phase = .b3) (hr : s.replies4 = none :: rest) :
      BusyStep s (failOp .errTransport .uninit
        (recordAnswer .fail { issue (.read 0x0A 4) s with replies4 := rest }))
  | b3Read (r : Reply4) (rest : List (Option Reply4)) (hp : s.phase = .b3)
      (hr : s.replies4 = some r :: rest) :
      BusyStep s { recordAnswer (.bytes4 r) { issue (.read 0x0A 4) s with replies4 := rest } with
        rx := s.rx.withFirstFour r, phase := .b4 }
  | b4Degenerate (hp : s.phase = .b4)
      (hz : s.cfg.serialZeroIsFailure = true ∧ s.rx.serialOfRx = 0) :
      BusyStep s (failOp .errTransport .uninit { s with serial := s.rx.serialOfRx })
  | b4Alive (hp : s.phase = .b4)
      (hz : ¬(s.cfg.serialZeroIsFailure = true ∧ s.rx.serialOfRx = 0)) :
      BusyStep s { s with serial := s.rx.serialOfRx, phase := .b5 }
  | b5Ends (hp : s.phase = .b5) : BusyStep s (endOp .ok { s with seqState := .ready })
  | r1Acked (rest : List Bool) (hp : s.phase = .r1) (ha : s.acks = true :: rest) :
      BusyStep s { recordAnswer (.ack true) { issue (.write 0x1E) s with acks := rest } with
        seqState := .reset, phase := .r2 }
  | r1Nacked (rest : List Bool) (hp : s.phase = .r1) (ha : s.acks = false :: rest) :
      BusyStep s (failOp .errCmdWrite .ready
        (recordAnswer (.ack false) { issue (.write 0x1E) s with acks := rest }))
  | r2Done (n : Nat) (hp : s.phase = .r2) (hd : s.dones = n + 1) :
      BusyStep s { recordAnswer .done { issue (.delay 15) s with dones := n } with phase := .r3 }
  | r3Ends (hp : s.phase = .r3) : BusyStep s (endOp .ok { s with seqState := .ready })
  | m1Acked (rest : List Bool) (hp : s.phase = .m1) (ha : s.acks = true :: rest) :
      BusyStep s { recordAnswer (.ack true) { issue (.write 0x40) s with acks := rest } with
        seqState := .converting, phase := .m2 }
  | m1Nacked (rest : List Bool) (hp : s.phase = .m1) (ha : s.acks = false :: rest) :
      BusyStep s (failOp .errCmdWrite .ready
        (recordAnswer (.ack false) { issue (.write 0x40) s with acks := rest }))
  | m2Done (n : Nat) (hp : s.phase = .m2) (hd : s.dones = n + 1) :
      BusyStep s { recordAnswer .done { issue (.delay 20) s with dones := n } with phase := .m3 }
  | m3Failed (rest : List (Option Reply6)) (hp : s.phase = .m3) (hr : s.replies6 = none :: rest) :
      BusyStep s (failOp .errTransport .ready
        (recordAnswer .fail { issue (.read 0x00 6) s with replies6 := rest }))
  | m3Read (r : Reply6) (rest : List (Option Reply6)) (hp : s.phase = .m3)
      (hr : s.replies6 = some r :: rest) :
      BusyStep s { recordAnswer (.bytes6 r) { issue (.read 0x00 6) s with replies6 := rest } with
        rx := r, phase := .m4 }
  | m4Matches (hp : s.phase = .m4) (hc : crc8 s.rx.rawT = s.rx.tempCrc) :
      BusyStep s { s with seqState := .decoded, phase := .m5 }
  | m4Differs (hp : s.phase = .m4) (hc : crc8 s.rx.rawT ≠ s.rx.tempCrc) :
      BusyStep s (failOp .errIntegrity .ready s)
  | m5Matches (hp : s.phase = .m5) (hc : crc8 s.rx.rawRh = s.rx.humCrc) :
      BusyStep s { s with phase := .m6 }
  | m5Differs (hp : s.phase = .m5) (hc : crc8 s.rx.rawRh ≠ s.rx.humCrc) :
      BusyStep s (failOp .errIntegrity .ready s)
  | m6Commits (hp : s.phase = .m6) :
      BusyStep s (endOp .ok
        { sampledNow s with
          measT := tempC s.cfg.convRounding s.rx.rawT
          measRh := rhPct s.cfg.convRounding s.rx.rawRh
          measTs := nowValue s
          measValid := true
          seqState := .ready })
  | h1Acked (rest : List Bool) (hp : s.phase = .h1) (ha : s.acks = true :: rest) :
      BusyStep s (endOp .ok
        (recordAnswer (.ack true)
          { issue (.write (if argOn s then 0x04 else 0x02)) s with acks := rest }))
  | h1Nacked (rest : List Bool) (hp : s.phase = .h1) (ha : s.acks = false :: rest) :
      BusyStep s (endOp .errCmdWrite
        (recordAnswer (.ack false)
          { issue (.write (if argOn s then 0x04 else 0x02)) s with acks := rest }))
  | x1Crc8 (hp : s.phase = .x1) (ho : s.curOp = 5) :
      BusyStep s (endOp .ok { s with result := (crc8 (argImm s)).setWidth 32 })
  | x1ConvT (hp : s.phase = .x1) (ho : s.curOp = 6) :
      BusyStep s (endOp .ok { s with result := tempC s.cfg.convRounding (argImm s) })
  | x1ConvRh (hp : s.phase = .x1) (ho : s.curOp = 7) :
      BusyStep s (endOp .ok { s with result := rhPct s.cfg.convRounding (argImm s) })

/-- The step that `phase` names is one of the cases above. -/
theorem busyStep_of_phaseStep {s t : State} (h : phaseStep s = some t) : BusyStep s t := by
  cases hp : s.phase with
  | idle => simp [phaseStep, hp] at h
  | b1 =>
    simp only [phaseStep, hp, Option.some.injEq] at h
    obtain ⟨-, rfl⟩ | ⟨rest, ha, rfl⟩ | ⟨rest, ha, rfl⟩ := tpWrite_cases h
    · exact .waits _ (by simp [stepTransaction, hp, cmdReset])
    · exact .b1Acked rest hp ha
    · exact .b1Nacked rest hp ha
  | b2 =>
    simp only [phaseStep, hp, Option.some.injEq] at h
    obtain ⟨-, rfl⟩ | ⟨n, hd, rfl⟩ := tpDelay_cases h
    · exact .waits _ (by simp [stepTransaction, hp, Config.tResetMs])
    · exact .b2Done n hp hd
  | b3 =>
    simp only [phaseStep, hp, Option.some.injEq] at h
    obtain ⟨-, rfl⟩ | ⟨rest, hr, rfl⟩ | ⟨r, rest, hr, rfl⟩ := tpRead4_cases h
    · exact .waits _ (by simp [stepTransaction, hp, cmdReadSerial])
    · exact .b3Failed rest hp hr
    · have := BusyStep.b3Read r rest hp hr
      simpa [recordAnswer, cmdReadSerial] using this
  | b4 =>
    simp only [phaseStep, hp, Option.some.injEq, beginB4] at h
    subst h
    split
    · rename_i hz; exact .b4Degenerate hp hz
    · rename_i hz; exact .b4Alive hp hz
  | b5 =>
    simp only [phaseStep, hp, Option.some.injEq] at h
    exact h ▸ .b5Ends hp
  | r1 =>
    simp only [phaseStep, hp, Option.some.injEq] at h
    obtain ⟨-, rfl⟩ | ⟨rest, ha, rfl⟩ | ⟨rest, ha, rfl⟩ := tpWrite_cases h
    · exact .waits _ (by simp [stepTransaction, hp, cmdReset])
    · exact .r1Acked rest hp ha
    · exact .r1Nacked rest hp ha
  | r2 =>
    simp only [phaseStep, hp, Option.some.injEq] at h
    obtain ⟨-, rfl⟩ | ⟨n, hd, rfl⟩ := tpDelay_cases h
    · exact .waits _ (by simp [stepTransaction, hp, Config.tResetMs])
    · exact .r2Done n hp hd
  | r3 =>
    simp only [phaseStep, hp, Option.some.injEq] at h
    exact h ▸ .r3Ends hp
  | m1 =>
    simp only [phaseStep, hp, Option.some.injEq] at h
    obtain ⟨-, rfl⟩ | ⟨rest, ha, rfl⟩ | ⟨rest, ha, rfl⟩ := tpWrite_cases h
    · exact .waits _ (by simp [stepTransaction, hp, cmdStartConversion])
    · exact .m1Acked rest hp ha
    · exact .m1Nacked rest hp ha
  | m2 =>
    simp only [phaseStep, hp, Option.some.injEq] at h
    obtain ⟨-, rfl⟩ | ⟨n, hd, rfl⟩ := tpDelay_cases h
    · exact .waits _ (by simp [stepTransaction, hp, Config.tConvMs])
    · exact .m2Done n hp hd
  | m3 =>
    simp only [phaseStep, hp, Option.some.injEq] at h
    obtain ⟨-, rfl⟩ | ⟨rest, hr, rfl⟩ | ⟨r, rest, hr, rfl⟩ := tpRead6_cases h
    · exact .waits _ (by simp [stepTransaction, hp, cmdReadTh])
    · exact .m3Failed rest hp hr
    · exact .m3Read r rest hp hr
  | m4 =>
    simp only [phaseStep, hp, Option.some.injEq, measureM4] at h
    subst h
    split
    · rename_i hc; exact .m4Matches hp hc
    · rename_i hc; exact .m4Differs hp hc
  | m5 =>
    simp only [phaseStep, hp, Option.some.injEq, measureM5] at h
    subst h
    split
    · rename_i hc; exact .m5Matches hp hc
    · rename_i hc; exact .m5Differs hp hc
  | m6 =>
    simp only [phaseStep, hp, Option.some.injEq] at h
    exact h ▸ .m6Commits hp
  | h1 =>
    simp only [phaseStep, hp, Option.some.injEq] at h
    obtain ⟨-, rfl⟩ | ⟨rest, ha, rfl⟩ | ⟨rest, ha, rfl⟩ := tpWrite_cases h
    · exact .waits _ (by simp [stepTransaction, hp, heaterCommand, cmdHeaterOn, cmdHeaterOff])
    · exact .h1Acked rest hp ha
    · exact .h1Nacked rest hp ha
  | x1 =>
    simp only [phaseStep, hp] at h
    split at h
    · rename_i ho; obtain rfl := Option.some.inj h; exact .x1Crc8 hp ho
    · split at h
      · rename_i ho; obtain rfl := Option.some.inj h; exact .x1ConvT hp ho
      · split at h
        · rename_i ho; obtain rfl := Option.some.inj h; exact .x1ConvRh hp ho
        · cases h

/-- Everything a step can do, in one disjunction: an idle block stays as it is, takes an operation up,
or rejects a word; a busy block runs a case of `BusyStep`. -/
theorem step_inversion {s t : State} (h : step s = .next t) :
    (s.phase = .idle ∧ s.busy = false ∧ s.reqs = [] ∧ t = s) ∨
    (∃ op arg first, s.phase = .idle ∧ s.busy = false ∧ s.reqs ≠ [] ∧ FirstStep op first ∧
      validIn op s.seqState = true ∧ t = accept op arg first (takeRequest s)) ∨
    (∃ st, s.phase = .idle ∧ s.busy = false ∧ s.reqs ≠ [] ∧
      (st = .errState ∨ st = .errIllegal) ∧ t = reject st (takeRequest s)) ∨
    (s.phase ≠ .idle ∧ BusyStep s t) := by
  obtain h | ⟨w, rest, hp, hb, hr, ha⟩ | ⟨hp, hs⟩ := step_cases h
  · exact .inl h
  · have hr' : s.reqs ≠ [] := by simp [hr]
    obtain ⟨op, arg, first, hf, hv, rfl⟩ | ⟨st, hst, rfl⟩ :=
      acceptance_cases (by simpa using hp) ha
    · exact .inr (.inl ⟨op, arg, first, hp, hb, hr', hf, by simpa using hv, rfl⟩)
    · exact .inr (.inr (.inl ⟨st, hp, hb, hr', hst, rfl⟩))
  · exact .inr (.inr (.inr ⟨hp, busyStep_of_phaseStep hs⟩))

end Machine
end Sys2Proof
end

