-- ==== Sys2Proof/Laws/Safety.lean ====
section
/-! SUPPORT. Small lemmas about the terms of Sys2Proof/Safety.lean. -/

namespace Sys2Proof
namespace Machine

theorem runSteps_zero (s : State) : runSteps 0 s = .next s := rfl

theorem runSteps_succ_next {s t : State} (h : step s = .next t) (k : Nat) :
    runSteps (k + 1) s = runSteps k t := by
  simp only [runSteps, h]

/-- What is outstanding is the newest event. -/
theorem outstanding_eq_some {s : State} {x : Transaction} :
    outstanding s = some x ↔ s.tpLog.head? = some (.sent x) := by
  unfold outstanding
  cases s.tpLog with
  | nil => simp
  | cons e l => cases e <;> simp

/-- The conversation after an answered transaction is what issuing it and answering it leave. -/
theorem conversed_eq (x : Transaction) (a : Answer) (s : State) :
    conversed x a s = .answered a :: (issue x s).tpLog := by
  unfold conversed
  rw [issue_tpLog]
  simp only [outstanding_eq_some]

/-- Issuing changes the conversation alone. -/
theorem issue_eta (x : Transaction) (s : State) :
    issue x s = { s with tpLog := (issue x s).tpLog } := by
  unfold issue
  split <;> rfl

theorem SameMeasurement.refl (s : State) : SameMeasurement s s := ⟨rfl, rfl, rfl, rfl⟩

theorem SameMeasurement.trans {s t u : State} (h : SameMeasurement s t) (k : SameMeasurement t u) :
    SameMeasurement s u :=
  ⟨k.1.trans h.1, k.2.1.trans h.2.1, k.2.2.1.trans h.2.2.1, k.2.2.2.trans h.2.2.2⟩

end Machine
end Sys2Proof
end

