-- ==== Sys2Proof/Tests/Slice0.lean ====
section
/-! SUPPORT. The model's own tests: the well-formedness smoke tests, each constructor's word written out from 30_encoding.md, the vectors of 95_test_vectors.md on single steps, and a witness for the hypotheses of every statement that has some. -/

namespace Sys2Proof
namespace Tests

open Machine

/-! ### Helpers -/

/-- The next state an outcome answers. -/
def nextOf (o : Out) : Option State :=
  match o with
  | .next s => some s
  | .fault _ => none
  | .refused _ => none

/-- Whether an outcome refuses for a reason. -/
def refusesWith (o : Out) (r : Refusal) : Bool :=
  match o with
  | .refused r' => r' == r
  | _ => false

/-- An idle block in `READY`, as after V-BEG-1. -/
def ready : State := { State.reset with seqState := .ready, lastStatus := .ok }

/-- A block in a step of an operation. -/
def busyAt (p : Phase) (q : SeqState) (op : BitVec 3) (arg : BitVec 17) : State :=
  { State.reset with phase := p, seqState := q, curOp := op, curArg := arg, busy := true }

/-- The reply `66 66 12 66 66 12` of V-MEA-1. -/
def goodReply : Reply6 :=
  { b0 := 0x66, b1 := 0x66, b2 := 0x12, b3 := 0x66, b4 := 0x66, b5 := 0x12 }

/-- The serial `12 34 56 78` of V-BEG-1. -/
def serialReply : Reply4 := { b0 := 0x12, b1 := 0x34, b2 := 0x56, b3 := 0x78 }

/-- The serial `00 00 00 00` of V-BEG-4. -/
def zeroSerial : Reply4 := { b0 := 0, b1 := 0, b2 := 0, b3 := 0 }

/-! ### Well-formedness: an ill-formed term for each check of R75 -/

theorem test_wf_opZero_refused :
    ({ imm16 := 0, rsv := 0, h := false, op := 0 } : ReqFields).wellFormed = false := by decide
theorem test_wf_rsv_refused :
    ({ imm16 := 0x1234, rsv := 1, h := false, op := 5 } : ReqFields).wellFormed = false := by decide
theorem test_wf_heaterBit_refused :
    ({ imm16 := 0, rsv := 0, h := true, op := 3 } : ReqFields).wellFormed = false := by decide
theorem test_wf_imm_refused :
    ({ imm16 := 1, rsv := 0, h := false, op := 4 } : ReqFields).wellFormed = false := by decide
theorem test_wf_heaterOn_passes :
    ({ imm16 := 0, rsv := 0, h := true, op := 4 } : ReqFields).wellFormed = true := by decide

/-! ### Decoding: each constructor's word, written out from R74 and R80 -/

theorem test_decode_begin :
    decode (.req24 0b000000000000000000000001) = .ok .begin := by decide
theorem test_decode_reset :
    decode (.req24 0b000000000000000000000010) = .ok .reset := by decide
theorem test_decode_measure :
    decode (.req24 0b000000000000000000000011) = .ok .measure := by decide
theorem test_decode_heater_off :
    decode (.req24 0b000000000000000000000100) = .ok (.heater false) := by decide
theorem test_decode_heater_on :
    decode (.req24 0b000000000000000000001100) = .ok (.heater true) := by decide
theorem test_decode_crc8 :
    decode (.req24 0b000100100011010000000101) = .ok (.crc8 0x1234) := by decide
theorem test_decode_convT :
    decode (.req24 0b100110011001100100000110) = .ok (.convT 0x9999) := by decide
theorem test_decode_convRh :
    decode (.req24 0b100000000000000000000111) = .ok (.convRh 0x8000) := by decide
theorem test_decode_wireReset : decode (.wire8 0b00011110) = .ok .wireReset := by decide
theorem test_decode_wireStartConversion :
    decode (.wire8 0b01000000) = .ok .wireStartConversion := by decide
theorem test_decode_wireReadSerial :
    decode (.wire8 0b00001010) = .ok .wireReadSerial := by decide
theorem test_decode_wireReadTh : decode (.wire8 0b00000000) = .ok .wireReadTh := by decide
theorem test_decode_wireHeaterOn : decode (.wire8 0b00000100) = .ok .wireHeaterOn := by decide
theorem test_decode_wireHeaterOff : decode (.wire8 0b00000010) = .ok .wireHeaterOff := by decide

/-- The words of 95_test_vectors.md section 2.7, and two of V-BEG and V-CNV-3. -/
theorem test_decode_illegal :
    decode (.req24 0x000000) = .error .opZero ∧
    decode (.req24 0x000008) = .error .opZero ∧
    decode (.req24 0x000015) = .error .rsvNonzero ∧
    decode (.req24 0x0000F3) = .error .rsvNonzero ∧
    decode (.req24 0x00000B) = .error .heaterBitSet ∧
    decode (.req24 0x00000E) = .error .heaterBitSet ∧
    decode (.req24 0x010001) = .error .immNonzero ∧
    decode (.req24 0x000101) = .error .immNonzero ∧
    decode (.req24 0x00010C) = .error .immNonzero ∧
    decode (.wire8 0x41) = .error .unknownCommandByte := by decide

/-- The table's CRC8, CONV_T and CONV_RH rows give bits 7 to 0 alone (log entry 9). -/
theorem test_decode_table_words :
    decodeTableWord 8 0x05 = some (.crc8 0) ∧ decodeTableWord 8 0x06 = some (.convT 0) ∧
    decodeTableWord 8 0x07 = some (.convRh 0) ∧ decodeTableWord 24 0x000002 = some .reset ∧
    decodeTableWord 8 0x02 = some .wireHeaterOff ∧ decodeTableWord 24 0x000000 = none := by decide

/-! ### CRC-8 and conversion (V-CRC-1, V-CNV-1, R186) -/

theorem test_crc8_vectors :
    crc8 0x0000 = 0x00 ∧ crc8 0xFFFF = 0x2D ∧ crc8 0x3333 = 0x09 ∧ crc8 0x6666 = 0x12 ∧
    crc8 0x8000 = 0x23 ∧ crc8 0x1234 = 0xB6 ∧ crc8 0xBEEF = 0x13 ∧ crc8 0x00FF = 0xAC ∧
    crc8 0xFF00 = 0x81 ∧ crc8 0xABCD = 0xEE := by set_option maxRecDepth 8000 in decide

/-- R106: entries of the byte table. -/
theorem test_crcTable : crcTable 0x01 = 0x31 ∧ crcTable 0x80 = 0x7A ∧ crcTable 0xFF = 0xAC := by
  decide

/-- The result after rounds 2 and 16 of the trace in R107. -/
theorem test_crc8_trace :
    (crcRound^[2] (crcStart 0x6666)).result = 0x2A2600 ∧
    (crcRound^[16] (crcStart 0x6666)).result = 0x000012 := by decide

theorem test_tempC_exact :
    tempC .exactRne 0x0001 = 0xC21FFD6C ∧ tempC .exactRne 0x1234 = 0xC1E22382 ∧
    tempC .exactRne 15887 = 0xBA3400B4 ∧ tempC .exactRne 15888 = 0x3AF000F0 ∧
    tempC .exactRne 0xFFFE = 0x42F9FEB6 := by set_option maxRecDepth 8000 in decide

theorem test_tempC_stepwise :
    tempC .f32Stepwise 249 = 0xC21D7E0A ∧ tempC .f32Stepwise 15887 = 0xBA340000 ∧
    tempC .f32Stepwise 0x9999 = 0x426C0002 ∧ tempC .f32Stepwise 0x8000 = 0x422A014A := by
  set_option maxRecDepth 8000 in decide

theorem test_rhPct :
    rhPct .exactRne 0x0001 = 0x3AC800C8 ∧ rhPct .exactRne 13 = 0x3CA280A3 ∧
    rhPct .f32Stepwise 13 = 0x3CA280A2 ∧ rhPct .exactRne 0xBEEF = 0x42952B4D ∧
    rhPct .f32Stepwise 0x9999 = 0x42700001 := by set_option maxRecDepth 8000 in decide

/-- R7, 93 G1: a tie goes to the even significand; the least subnormal; past the largest finite value. -/
theorem test_rne32_corners :
    rne32 16777217 1 = 0x4B800000 ∧ rne32 16777219 1 = 0x4B800002 ∧
    rne32 (-3) 2 = 0xBFC00000 ∧ rne32 1 (2 ^ 149) = 0x00000001 ∧
    rne32 (2 ^ 128) 1 = 0x7F800000 := by set_option maxRecDepth 8000 in decide

/-! ### Reset and the read port -/

/-- R31: `STATUS` after block reset; V-BEG: `STATUS` while `BEGIN` waits in B2; V-MEA: in M2. -/
theorem test_status_words :
    hostRead 0 State.reset = 0x007 ∧ hostRead 0 (busyAt .b2 .reset 1 0) = 0x097 ∧
    hostRead 0 { busyAt .m2 .converting 3 0 with lastStatus := .ok } = 0x0B0 ∧
    hostRead 5 ready = 0 := by decide

/-! ### One step of each instruction, from the vectors -/

/-- V-BEG-1: B1 acknowledged, then (second clause) B5. -/
theorem test_begin :
    ((nextOf (exec .begin { busyAt .b1 .uninit 1 0 with acks := [true] })).map
      fun t => (t.phase, t.seqState, t.tpLog.length)) = some (.b2, .reset, 2) ∧
    ((nextOf (exec .begin (busyAt .b5 .reset 1 0))).map (hostRead 0)) = some 0x020 := by decide

/-- V-BEG-4 and V-BEG-5: the zero serial, with the parameter true and false. -/
theorem test_begin_degenerate :
    ((nextOf (exec .begin (busyAt .b4 .reset 1 0))).map (hostRead 0)) = some 0x001 ∧
    ((nextOf (exec .begin { busyAt .b4 .reset 1 0 with
        cfg := { Config.default with serialZeroIsFailure := false } })).map
      fun t => t.phase) = some .b5 := by decide

/-- V-RST-2 and V-RST-4. -/
theorem test_reset :
    ((nextOf (exec .reset { busyAt .r1 .ready 2 0 with acks := [false] })).map (hostRead 0)) =
      some 0x023 ∧
    ((nextOf (exec .reset State.reset)).map (hostRead 0)) = some 0x004 := by decide

/-- V-MEA-1 at M6. -/
theorem test_measure_commits :
    ((nextOf (exec .measure { busyAt .m6 .decoded 3 0 with rx := goodReply, nowMs := [1000] })).map
      fun t => (hostRead 0 t, hostRead 1 t, hostRead 2 t, hostRead 3 t)) =
      some (0x120, 0x41D00000, 0x42200000, 0x3E8) := by set_option maxRecDepth 8000 in decide

/-- V-MEA-6: both CRC bytes wrong end at M4. -/
theorem test_measure_bad_crc :
    ((nextOf (exec .measure { busyAt .m4 .converting 3 0 with
        rx := { goodReply with b2 := 0x13, b5 := 0x13 } })).map (hostRead 0)) = some 0x022 := by
  set_option maxRecDepth 8000 in decide

/-- V-HTR-3 (second step) and V-HTR-4. -/
theorem test_heater :
    ((nextOf (exec (.heater false) { busyAt .h1 .ready 4 0 with acks := [false] })).map
      fun t => (hostRead 0 t, t.tpLog)) =
      some (0x023, [.answered (.ack false), .sent (.write 0x02)]) ∧
    ((nextOf (exec (.heater true) State.reset)).map (hostRead 0)) = some 0x004 := by decide

/-- V-CRC-1: `CRC8 0x6666`. -/
theorem test_crc8 :
    ((nextOf (exec (.crc8 0x6666) (busyAt .x1 .uninit 5 (packArg false 0x6666)))).map
      fun t => (hostRead 4 t, t.lastStatus)) = some (0x12, .ok) := by decide

/-- Program P3: `CONV_T 0x9999`. -/
theorem test_convT :
    ((nextOf (exec (.convT 0x9999) (busyAt .x1 .uninit 6 (packArg false 0x9999)))).map
      fun t => (hostRead 4 t, t.lastStatus)) = some (0x426C0000, .ok) := by set_option maxRecDepth 8000 in decide

/-- Program P3: `CONV_RH 0x8000`. -/
theorem test_convRh :
    ((nextOf (exec (.convRh 0x8000) (busyAt .x1 .uninit 7 (packArg false 0x8000)))).map
      fun t => (hostRead 4 t, t.lastStatus)) = some (0x424800C8, .ok) := by set_option maxRecDepth 8000 in decide

/-- V-BEG-2 and V-RST-2: the same byte, not acknowledged, in each step that sends it. -/
theorem test_wireReset :
    ((nextOf (exec .wireReset { busyAt .b1 .uninit 1 0 with acks := [false] })).map (hostRead 0)) =
      some 0x001 ∧
    ((nextOf (exec .wireReset { busyAt .r1 .ready 2 0 with acks := [false] })).map (hostRead 0)) =
      some 0x023 := by decide

/-- V-MEA-2. -/
theorem test_wireStartConversion :
    ((nextOf (exec .wireStartConversion { busyAt .m1 .ready 3 0 with acks := [false] })).map
      fun t => (hostRead 0 t, t.tpLog)) =
      some (0x023, [.answered (.ack false), .sent (.write 0x40)]) := by decide

/-- V-BEG-3. -/
theorem test_wireReadSerial :
    ((nextOf (exec .wireReadSerial { busyAt .b3 .reset 1 0 with replies4 := [none] })).map
      (hostRead 0)) = some 0x001 := by decide

/-- V-MEA-3, and a reply taken whole into `RX`. -/
theorem test_wireReadTh :
    ((nextOf (exec .wireReadTh { busyAt .m3 .converting 3 0 with replies6 := [none] })).map
      (hostRead 0)) = some 0x021 ∧
    ((nextOf (exec .wireReadTh
        { busyAt .m3 .converting 3 0 with replies6 := [some goodReply] })).map
      fun t => (t.rx, t.phase)) = some (goodReply, .m4) := by decide

/-- V-HTR-1. -/
theorem test_wireHeaterOn :
    ((nextOf (exec .wireHeaterOn
        { busyAt .h1 .ready 4 (packArg true 0) with acks := [true] })).map
      fun t => (hostRead 0 t, t.tpLog)) =
      some (0x020, [.answered (.ack true), .sent (.write 0x04)]) := by decide

/-- V-HTR-2. -/
theorem test_wireHeaterOff :
    ((nextOf (exec .wireHeaterOff
        { busyAt .h1 .ready 4 (packArg false 0) with acks := [true] })).map
      fun t => (hostRead 0 t, t.tpLog)) =
      some (0x020, [.answered (.ack true), .sent (.write 0x02)]) := by decide

/-- 95 section 2.7: `0x000103` from block reset ends `ERR_ILLEGAL`, checked before the state. -/
theorem test_step_illegal :
    ((nextOf (step { State.reset with reqs := [0x000103] })).map (hostRead 0)) = some 0x005 := by
  decide

/-- The placed words of the table run as the first step after reset. -/
theorem test_withFetchWord :
    ((nextOf (step (State.reset.withFetchWord 24 0x666605))).map fun t => (t.phase, argImm t)) =
      some (.x1, 0x6666) ∧
    ((nextOf (step (State.reset.withFetchWord 8 0x40))).map fun t => t.tpLog) =
      some [.sent (.write 0x40)] := by decide

/-- R84: `READ_TEMP` is `MEASURE`, `wait`, `rd 0`, and `rd 1` where the status is `OK`. -/
theorem test_pseudo_readTemp :
    Pseudo.readTemp.expand = [.present 0x000003, .wait, .rd 0, .rdIfOk 1] := by decide

/-! ### Witnesses: a state that meets the hypotheses of each statement -/

theorem witness_idle_request :
    State.reset.phase = .idle ∧ State.reset.busy = false ∧
    ({ State.reset with reqs := [0x000001] } : State).reqs = [0x000001] ∧
    decodeReq 0x000001 = .ok .begin ∧ decodeReq 0xFFFFFF = .error .rsvNonzero := by decide

theorem witness_encodeOfDecode :
    decode (.req24 0xFFFF07) = .ok (.convRh 0xFFFF) ∧ decode (.wire8 0x1E) = .ok .wireReset := by
  decide

theorem witness_illegalWords :
    IllegalWord 0x000000 ∧ IllegalWord 0x000010 ∧ IllegalWord 0x00000D ∧ IllegalWord 0x000104 := by
  simp [IllegalWord]

theorem witness_acceptance :
    (State.reset.phase = .idle ∧ State.reset.busy = false ∧ State.reset.seqState = .uninit) ∧
    (ready.phase = .idle ∧ ready.busy = false ∧ ready.seqState = .ready) := by decide

theorem witness_hostRead :
    ({ acts := [.rd 0, .rd 0], reads := [], block := ready } : Hosted).acts =
      .rd 0 :: .rd 0 :: [] := rfl

/-- Every step of a busy block: the phase and the answer each clause asks for. -/
theorem witness_steps :
    (∀ p q op arg, (busyAt p q op arg).phase = p) ∧
    (∀ p q op arg a, ({ busyAt p q op arg with acks := [a] } : State).acks = a :: []) ∧
    (∀ p q op arg, ({ busyAt p q op arg with dones := 1 } : State).dones = 0 + 1) ∧
    (∀ p q op arg r, ({ busyAt p q op arg with replies4 := [r] } : State).replies4 = r :: []) ∧
    (∀ p q op arg r, ({ busyAt p q op arg with replies6 := [r] } : State).replies6 = r :: []) ∧
    (∀ p q op arg t, ({ busyAt p q op arg with nowMs := [t] } : State).nowMs = t :: []) ∧
    (∀ p q op arg, (busyAt p q op arg).nowMs = []) :=
  ⟨fun _ _ _ _ => rfl, fun _ _ _ _ _ => rfl, fun _ _ _ _ => rfl, fun _ _ _ _ _ => rfl,
    fun _ _ _ _ _ => rfl, fun _ _ _ _ _ => rfl, fun _ _ _ _ => rfl⟩

theorem witness_begin_b1 :
    ∃ (s : State) (rest : _), s.phase = .b1 ∧ s.acks = true :: rest :=
  ⟨{ busyAt .b1 .uninit 1 0 with acks := [true] }, [], rfl, rfl⟩
theorem witness_begin_b3 :
    ∃ (s : State) (r : _) (rest : _), s.phase = .b3 ∧ s.replies4 = some r :: rest :=
  ⟨{ busyAt .b3 .reset 1 0 with replies4 := [some serialReply] }, serialReply, [], rfl, rfl⟩
theorem witness_reset_r1 :
    ∃ (s : State) (rest : _), s.phase = .r1 ∧ s.acks = false :: rest :=
  ⟨{ busyAt .r1 .ready 2 0 with acks := [false] }, [], rfl, rfl⟩
theorem witness_measure_m3 :
    ∃ (s : State) (r : _) (rest : _), s.phase = .m3 ∧ s.replies6 = some r :: rest :=
  ⟨{ busyAt .m3 .converting 3 0 with replies6 := [some goodReply] }, goodReply, [], rfl, rfl⟩
theorem witness_measure_m6 :
    ∃ (s : State) (t : _) (rest : _), s.phase = .m6 ∧ s.nowMs = t :: rest :=
  ⟨{ busyAt .m6 .decoded 3 0 with nowMs := [1000] }, 1000, [], rfl, rfl⟩

theorem witness_heater :
    ∃ (s : State) (a : Bool) (rest : _), s.phase = .h1 ∧ s.curArg.getLsbD 16 = true ∧ s.acks = a :: rest :=
  ⟨{ busyAt .h1 .ready 4 (packArg true 0) with acks := [true] }, true, [], rfl, by decide, rfl⟩
theorem witness_heater_off :
    ∃ (s : State) (a : Bool) (rest : _), s.phase = .h1 ∧ s.curArg.getLsbD 16 = false ∧ s.acks = a :: rest :=
  ⟨{ busyAt .h1 .ready 4 (packArg false 0) with acks := [true] }, true, [], rfl, by decide, rfl⟩

theorem witness_pure :
    ∃ (s : State) (v : U16), s.phase = .x1 ∧ s.curArg.extractLsb' 0 16 = v ∧ s.curOp = 5 :=
  ⟨busyAt .x1 .uninit 5 (packArg false 0xFFFF), 0xFFFF, rfl, by decide, rfl⟩
theorem witness_pure_conversions :
    (busyAt .x1 .ready 6 0).curOp = 6 ∧ (busyAt .x1 .ready 7 0).curOp = 7 := by decide

theorem witness_unanswered :
    ∃ (s : State) (t : Transaction), SeqInv s ∧ stepTransaction s = some t ∧ unanswered s t :=
  ⟨busyAt .b2 .reset 1 0, .delay 15, ⟨rfl, rfl, rfl⟩, rfl, rfl⟩

/-- A step of another operation, of the same step with another operand or switch, and of another pure
operation. -/
theorem witness_foreign_step :
    (busyAt .m2 .converting 3 0).phase ≠ .idle ∧
    (busyAt .m2 .converting 3 0).phase ∉ [Phase.b1, .b2, .b3, .b4, .b5] ∧
    (busyAt .m2 .converting 3 0).phase ∉ [Phase.r1, .r2, .r3] ∧
    (busyAt .h1 .ready 4 0).phase ∉ [Phase.m1, .m2, .m3, .m4, .m5, .m6] ∧
    ((busyAt .h1 .ready 4 0).phase = .h1 ∧ (busyAt .h1 .ready 4 0).curArg.getLsbD 16 ≠ true) ∧
    ((busyAt .h1 .ready 4 (packArg true 0)).curArg.getLsbD 16 ≠ false) ∧
    ((busyAt .x1 .ready 5 0).phase = .x1 ∧ (busyAt .x1 .ready 5 0).curOp ≠ 6 ∧
      (busyAt .x1 .ready 5 0).curOp ≠ 7) ∧
    ((busyAt .x1 .ready 6 0).curOp ≠ 5 ∧
      (busyAt .x1 .ready 5 0).curArg.extractLsb' 0 16 ≠ (0xFFFF : U16)) := by decide

/-- What the clauses conclude in three of those states. -/
theorem witness_foreign_step_refused :
    refusesWith (exec .begin (busyAt .m2 .converting 3 0)) .requestWhileBusy = true ∧
    refusesWith (exec (.heater true) (busyAt .h1 .ready 4 0)) .requestWhileBusy = true ∧
    refusesWith (exec (.crc8 0xFFFF) (busyAt .x1 .ready 5 0)) .requestWhileBusy = true ∧
    refusesWith (exec (.convT 0) (busyAt .x1 .ready 5 0)) .requestWhileBusy = true ∧
    refusesWith (exec .wireReadTh (busyAt .m2 .converting 3 0)) .commandNotSentHere = true ∧
    refusesWith (exec .wireHeaterOn (busyAt .h1 .ready 4 0)) .commandNotSentHere = true := by
  decide

/-- A step of a busy block that meets every invariant, and does not end in a refusal. -/
theorem witness_invariants :
    ∃ (s t : State), SeqInv s ∧ TpInv s ∧ MeasInv s ∧ s.phase ≠ .idle ∧ step s = .next t :=
  ⟨busyAt .r1 .ready 2 0, issue (.write 0x1E) (busyAt .r1 .ready 2 0),
    ⟨rfl, rfl, rfl⟩, ⟨rfl, rfl⟩, ⟨trivial, fun h => absurd h (by decide), fun _ => ⟨rfl, rfl, rfl⟩⟩, by decide, rfl⟩

/-- A step that writes `SEQ_STATE`, and one after which the status is not `OK`. -/
theorem witness_writers :
    (∃ s t, step s = .next t ∧ t.seqState ≠ s.seqState) ∧
    (∃ s t, step s = .next t ∧ t.lastStatus ≠ .ok) :=
  ⟨⟨busyAt .b5 .reset 1 0, beginB5 (busyAt .b5 .reset 1 0), rfl, by decide⟩,
    ⟨{ State.reset with reqs := [0] }, reject .errIllegal State.reset, rfl, by decide⟩⟩

theorem witness_answersReady :
    ∃ s : State, SeqInv s ∧ s.phase ≠ .idle ∧ answersReady s :=
  ⟨{ busyAt .m1 .ready 3 0 with
      acks := [true], dones := 1, replies4 := [none], replies6 := [some goodReply] },
    ⟨rfl, rfl, rfl⟩, by decide, by simp [answersReady]⟩

/-- A `MEASURE` about to be accepted, with all its answers at hand. -/
def measureReady (r : Reply6) : State :=
  { ready with reqs := [0x000003], acks := [true], dones := 1, replies6 := [some r],
               nowMs := [1000] }

theorem witness_measure_good :
    (measureReady goodReply).phase = .idle ∧ (measureReady goodReply).busy = false ∧
    (measureReady goodReply).seqState = .ready ∧ (measureReady goodReply).reqs = 0x000003 :: [] ∧
    (measureReady goodReply).acks = true :: [] ∧ (measureReady goodReply).dones = 0 + 1 ∧
    (measureReady goodReply).replies6 = some goodReply :: [] ∧
    (measureReady goodReply).nowMs = 1000 :: [] ∧ outstanding (measureReady goodReply) = none ∧
    crc8 (goodReply.b0 ++ goodReply.b1) = goodReply.b2 ∧
    crc8 (goodReply.b3 ++ goodReply.b4) = goodReply.b5 := by set_option maxRecDepth 8000 in decide

/-- V-MEA-4 and V-MEA-5. -/
theorem witness_measure_bad :
    crc8 ((0x66 : Byte) ++ (0x66 : Byte)) ≠ (0x13 : Byte) ∧
    (crc8 (goodReply.b0 ++ goodReply.b1) = goodReply.b2 ∧
      crc8 (goodReply.b3 ++ goodReply.b4) ≠ ({ goodReply with b5 := 0x13 } : Reply6).b5) := by
  set_option maxRecDepth 8000 in decide

/-- The whole of R152's hypotheses: the operation ends after five steps where the reply is bad. -/
theorem witness_measure_ends :
    (match runSteps 5 (measureReady { goodReply with b2 := 0x13 }) with
      | .next t => t.phase == .idle && t.reqs == [] && t.lastStatus == .errIntegrity
      | _ => false) = true := by set_option maxRecDepth 8000 in decide

/-- A `BEGIN` about to be accepted, with all its answers at hand. -/
def beginReady (r : Reply4) : State :=
  { State.reset with reqs := [0x000001], acks := [true], dones := 1, replies4 := [some r] }

theorem witness_begin :
    (beginReady serialReply).phase = .idle ∧ (beginReady serialReply).busy = false ∧
    (beginReady serialReply).seqState = .uninit ∧
    (beginReady serialReply).reqs = 0x000001 :: [] ∧ (beginReady serialReply).acks = true :: [] ∧
    (beginReady serialReply).dones = 0 + 1 ∧
    (beginReady serialReply).replies4 = some serialReply :: [] ∧
    outstanding (beginReady serialReply) = none := by decide

/-- V-BEG-1 and V-BEG-4: where the two branches of the statement end. -/
theorem witness_begin_ends :
    ((nextOf (runSteps 6 (beginReady serialReply))).map fun t => (hostRead 0 t, t.serial)) =
      some (0x020, 0x12345678) ∧
    ((nextOf (runSteps 5 (beginReady zeroSerial))).map (hostRead 0)) = some 0x001 := by decide

theorem witness_rounding :
    0 < (65535 : Nat) ∧ (rne32 1 65535).toNat % 2 ^ 31 < 0x7F800000 ∧
    (0x7F7FFFFF : U32).toNat % 2 ^ 31 < 0x7F800000 := by set_option maxRecDepth 8000 in decide

/-- The acts of a host, one after another. -/
def hostedRun : Nat → Hosted → Option Hosted
  | 0, h => some h
  | k + 1, h =>
    match hostedStep h with
    | .next h' => hostedRun k h'
    | .fault _ => none
    | .refused _ => none

/-- 95 section V-BEG: a host that reads `STATUS` while `BEGIN` waits in B2 reads `0x097`, and reads the
same again. -/
theorem test_host_sees_busy :
    ((hostedRun 5
      { acts := [.present 0x000001, .pass, .pass, .rd 0, .rd 0], reads := [],
        block := { State.reset with acks := [true] } }).map fun h => h.reads) =
      some [0x097, 0x097] := by decide

/-- V-MEA: a host that reads `STATUS` while `MEASURE` waits in M2 reads `0x0B0`. -/
theorem test_host_sees_converting :
    ((hostedRun 4
      { acts := [.present 0x000003, .pass, .pass, .rd 0], reads := [],
        block := { ready with acks := [true] } }).map fun h => h.reads) = some [0x0B0] := by decide

theorem witness_host_pass :
    ∃ (h : Hosted) (t : State),
      h.acts = .pass :: .rd 0 :: [] ∧ step h.block = .next t ∧ t.busy = true :=
  ⟨{ acts := [.pass, .rd 0], reads := [], block := { State.reset with reqs := [0x000001] } },
    accept 1 (packArg false 0) .b1 State.reset, rfl, rfl, rfl⟩

/-- Both clauses: an idle block, and a busy one with a step to make. -/
theorem witness_host_present :
    (State.reset.busy = false ∧ State.reset.reqs = []) ∧
    (busyAt .b5 .reset 1 0).busy = true ∧
      ∃ t, step (busyAt .b5 .reset 1 0) = .next t :=
  ⟨⟨rfl, rfl⟩, rfl, beginB5 (busyAt .b5 .reset 1 0), rfl⟩

theorem witness_crcMask : (0 : Nat) ≤ 16 ∧ (16 : Nat) ≤ 16 := by decide

theorem witness_idle_without_request :
    State.reset.phase = .idle ∧ State.reset.busy = false ∧ State.reset.reqs = [] := by decide

theorem witness_block_reset : blockReset ready = State.reset := by decide

/-- A run of one step from block reset. -/
theorem witness_run : ∃ t, runSteps 1 (blockReset { ready with reqs := [0x000001] }) = .next t :=
  ⟨accept 1 (packArg false 0) .b1 State.reset, rfl⟩

/-- A step that ends an operation. -/
theorem witness_end :
    (busyAt .b5 .reset 1 0).phase ≠ .idle ∧
      ∃ t, step (busyAt .b5 .reset 1 0) = .next t ∧ t.phase = .idle :=
  ⟨by decide, beginB5 (busyAt .b5 .reset 1 0), rfl, rfl⟩

theorem witness_monotone : (0x0000 : U16).toNat ≤ (0xFFFF : U16).toNat := by decide

theorem witness_placed :
    encode (.crc8 0xFFFF) = .req24 0xFFFF05 ∧ encode .wireReadTh = .wire8 0x00 := by decide

end Tests
end Sys2Proof
end

section
/-! O32: the parameters of R5 are read by the steps and written by none. -/

namespace Sys2Proof
namespace Laws

open Machine

/-- No step of an operation in progress writes a parameter. -/
theorem busyStep_cfg {s t : State} (h : BusyStep s t) : t.cfg = s.cfg := by
  cases h with
  | waits x _ => exact issue_cfg x s
  -- the steps that pass on to the next step
  | b4Alive | m4Matches | m5Matches => rfl
  | b1Acked | b2Done | b3Read | r1Acked | r2Done | m1Acked | m2Done | m3Read => simp
  -- the steps that fail, and those that end the operation
  | b1Nacked | b3Failed | b4Degenerate | r1Nacked | m1Nacked | m3Failed | m4Differs | m5Differs =>
    simp
  | b5Ends | r3Ends | m6Commits | h1Acked | h1Nacked | x1Crc8 | x1ConvT | x1ConvRh => simp

/-- Settles O32, by the cases of a step. -/
theorem noStepWritesTheParameters : Obligations.NoStepWritesTheParameters := by
  unfold Obligations.NoStepWritesTheParameters
  intro s t h
  obtain ⟨-, -, -, rfl⟩ | ⟨op, arg, first, -, -, -, -, -, rfl⟩ | ⟨st, -, -, -, -, rfl⟩ | ⟨-, hb⟩ :=
    step_inversion h
  · rfl
  · rw [accept_cfg, takeRequest_cfg]
  · rw [reject_cfg, takeRequest_cfg]
  · exact busyStep_cfg hb

end Laws
end Sys2Proof
end

section
/-! O50: rounding is to a nearest binary32 value, ties to even.  Magnitudes are counted in units of
`2 ^ -149` and multiplied by the denominator.  The rounded value is the nearest one on the grid of its
own binade, and a binary32 value off that grid lies below the binade, so it is farther away than the
binade's foot. -/

namespace Sys2Proof
namespace Laws

open Machine

/-! ### What it is to be a nearest value -/

/-- Rounding `n` to `x` rather than to `y`: `y` is not nearer to `n`, and another value `y` is
equally near only where `even`, that the pattern of `x` is even, holds. -/
def RoundsRather (n x y : Int) (even : Prop) : Prop :=
  (x - n).natAbs ≤ (y - n).natAbs ∧ (y ≠ x → (x - n).natAbs = (y - n).natAbs → even)

/-- A value farther away than one already compared never ties. -/
theorem RoundsRather.of_farther {n x z y : Int} {even : Prop} (h : RoundsRather n x z even)
    (hy : (z - n).natAbs < (y - n).natAbs) : RoundsRather n x y even :=
  have hlt := h.1.trans_lt hy
  ⟨hlt.le, fun _ he => absurd he hlt.ne⟩

/-- Rounding commutes with the sign. -/
theorem RoundsRather.neg {n x y : Int} {even : Prop} (h : RoundsRather n x y even) :
    RoundsRather (-n) (-x) (-y) even := by
  obtain ⟨hle, htie⟩ := h
  exact ⟨by omega, fun hne he => htie (by omega) (by omega)⟩

/-- A value of the other sign is no nearer than zero is. -/
theorem RoundsRather.opposite {n x y : Int} {even : Prop} (h : RoundsRather n x 0 even)
    (hn : 0 ≤ n) (hy : y ≤ 0) : RoundsRather n x y even := by
  obtain ⟨hle, htie⟩ := h
  exact ⟨by omega, fun hne he => htie (by omega) (by omega)⟩

/-! ### Rounding a quotient to a whole number -/

/-- The significand of `roundMagnitude`: `n / d` rounded to a nearest whole number, ties to even. -/
def roundQuotient (n d : Nat) : Nat :=
  if d < 2 * (n % d) ∨ (2 * (n % d) = d ∧ n / d % 2 = 1) then n / d + 1 else n / d

theorem le_roundQuotient (n d : Nat) : n / d ≤ roundQuotient n d := by
  unfold roundQuotient; split <;> omega

theorem roundQuotient_le (n d : Nat) : roundQuotient n d ≤ n / d + 1 := by
  unfold roundQuotient; split <;> omega

/-- The rounded quotient is a nearest whole multiple of the divisor, ties to even. -/
theorem roundQuotient_nearest (n : Nat) {d : Nat} (hd : 0 < d) (k : Nat) :
    RoundsRather n ((roundQuotient n d * d : Nat) : Int) ((k * d : Nat) : Int)
      (roundQuotient n d % 2 = 0) := by
  have hn : n / d * d + n % d = n := by rw [Nat.mul_comm]; exact Nat.div_add_mod n d
  have hr : n % d < d := Nat.mod_lt n hd
  have hup : (n / d + 1) * d = n / d * d + d := Nat.succ_mul ..
  have hbelow : k < n / d → k * d + d ≤ n / d * d := fun h =>
    Nat.succ_mul k d ▸ Nat.mul_le_mul_right d h
  have habove : n / d + 1 < k → n / d * d + d + d ≤ k * d := fun h => by
    rw [← hup, ← Nat.succ_mul]; exact Nat.mul_le_mul_right d h
  -- the two multiples around `n`, and those beyond them, at least `d` farther away
  obtain hk | rfl | rfl | hk :
      k < n / d ∨ k = n / d ∨ k = n / d + 1 ∨ n / d + 1 < k := by omega
  all_goals unfold RoundsRather roundQuotient; split <;> omega

/-! ### The value of a pattern -/

/-- The value of a pattern without its sign bit, in units of `2 ^ -149`. -/
def magnitudeUnits (m : Nat) : Nat :=
  if m / 2 ^ 23 = 0 then m % 2 ^ 23 else (2 ^ 23 + m % 2 ^ 23) * 2 ^ (m / 2 ^ 23 - 1)

/-- Bit 31 is the sign. -/
theorem unitsOf_eq (b : U32) :
    unitsOf b = if 2 ^ 31 ≤ b.toNat then -(magnitudeUnits (b.toNat % 2 ^ 31) : Int)
      else magnitudeUnits (b.toNat % 2 ^ 31) := by
  have hb := b.isLt
  have hs : b.getLsbD 31 = true ↔ 2 ^ 31 ≤ b.toNat := by
    rw [BitVec.getLsbD, Nat.testBit_eq_decide_div_mod_eq, decide_eq_true_iff]; omega
  simp only [unitsOf, magnitudeUnits, hs]

theorem unitsOf_natAbs (b : U32) : (unitsOf b).natAbs = magnitudeUnits (b.toNat % 2 ^ 31) := by
  rw [unitsOf_eq]; split <;> omega

/-- A significand of binade `t`, counted from the subnormals' `0`: the next binade's foot, `2 ^ 24`,
carries into the exponent by itself. -/
theorem magnitudeUnits_pattern {t sig : Nat} (hle : sig ≤ 2 ^ 24) (ht : t = 0 ∨ 2 ^ 23 ≤ sig) :
    magnitudeUnits (t * 2 ^ 23 + sig) = sig * 2 ^ t := by
  unfold magnitudeUnits
  obtain hs | hs | rfl : sig < 2 ^ 23 ∨ (2 ^ 23 ≤ sig ∧ sig < 2 ^ 24) ∨ sig = 2 ^ 24 := by omega
  · obtain rfl : t = 0 := by omega
    rw [if_pos (by omega)]; omega
  · rw [if_neg (by omega), show (t * 2 ^ 23 + sig) / 2 ^ 23 - 1 = t by omega,
      show 2 ^ 23 + (t * 2 ^ 23 + sig) % 2 ^ 23 = sig by omega]
  · rw [if_neg (by omega), show (t * 2 ^ 23 + 2 ^ 24) / 2 ^ 23 - 1 = t + 1 by omega,
      show (t * 2 ^ 23 + 2 ^ 24) % 2 ^ 23 = 0 by omega]
    ring

/-- A value whose exponent is past `t` lies on the grid of `2 ^ t`. -/
theorem dvd_magnitudeUnits {t m : Nat} (h : t < m / 2 ^ 23) : 2 ^ t ∣ magnitudeUnits m := by
  unfold magnitudeUnits
  rw [if_neg (by omega)]
  exact Dvd.dvd.mul_left (pow_dvd_pow 2 (by omega)) _

/-- A value whose exponent is at most `t` lies below binade `t`. -/
theorem magnitudeUnits_lt {t m : Nat} (h : m / 2 ^ 23 ≤ t) : magnitudeUnits m < 2 ^ 23 * 2 ^ t := by
  have hf : m % 2 ^ 23 < 2 ^ 23 := Nat.mod_lt _ (by norm_num)
  unfold magnitudeUnits
  split
  · exact hf.trans_le (Nat.le_mul_of_pos_right _ (by positivity))
  · rename_i he
    have hm : m / 2 ^ 23 - 1 + 1 = m / 2 ^ 23 := by omega
    calc (2 ^ 23 + m % 2 ^ 23) * 2 ^ (m / 2 ^ 23 - 1)
        < 2 ^ 24 * 2 ^ (m / 2 ^ 23 - 1) := Nat.mul_lt_mul_of_pos_right (by omega) (by positivity)
      _ = 2 ^ 23 * 2 ^ (m / 2 ^ 23) := by
          rw [← congrArg (2 ^ ·) hm]; ring
      _ ≤ 2 ^ 23 * 2 ^ t := Nat.mul_le_mul_left _ (Nat.pow_le_pow_right (by norm_num) h)

/-! ### The rounded magnitude -/

/-- The binade `roundMagnitude` rounds `n / den` in. -/
def binadeOf (n den : Nat) : Nat := Nat.log2 (n / den) - 23

/-- The pattern of `n / den` units of `2 ^ -149`, no infinity set in. -/
def roundedPattern (n den : Nat) : Nat :=
  binadeOf n den * 2 ^ 23 + roundQuotient n (den * 2 ^ binadeOf n den)

theorem roundMagnitude_eq {num den : Nat} (hfin : roundMagnitude num den < 0x7F800000) :
    roundMagnitude num den = roundedPattern (num * 2 ^ 149) den :=
  min_eq_left ((min_lt_iff.1 hfin).resolve_right (lt_irrefl _)).le

/-- In its own binade a significand has at most 24 bits. -/
theorem quotient_lt (n den : Nat) : n / (den * 2 ^ binadeOf n den) < 2 ^ 24 := by
  rw [← Nat.div_div_eq_div_mul]
  refine Nat.div_lt_of_lt_mul ((Nat.lt_log2_self).trans_le ?_)
  rw [← pow_add, binadeOf]
  exact Nat.pow_le_pow_right (by norm_num) (by omega)

/-- Above the subnormals' binade a significand has its leading bit. -/
theorem le_quotient {n den : Nat} (h : 0 < binadeOf n den) :
    2 ^ 23 ≤ n / (den * 2 ^ binadeOf n den) := by
  unfold binadeOf at h ⊢
  have hq : n / den ≠ 0 := by rintro h0; simp [h0] at h
  rw [← Nat.div_div_eq_div_mul, Nat.le_div_iff_mul_le (by positivity), ← pow_add,
    show 23 + (Nat.log2 (n / den) - 23) = Nat.log2 (n / den) by omega]
  exact Nat.log2_self_le hq

/-- The rounded pattern has a nearest one among the values of all patterns, ties to even. -/
theorem roundedPattern_nearest (n : Nat) {den : Nat} (hden : 0 < den) (m : Nat) :
    RoundsRather n ((magnitudeUnits (roundedPattern n den) * den : Nat) : Int)
      ((magnitudeUnits m * den : Nat) : Int) (roundedPattern n den % 2 = 0) := by
  unfold roundedPattern
  have hlt := quotient_lt n den
  have hlead := le_quotient (n := n) (den := den)
  generalize binadeOf n den = t at hlt hlead ⊢
  have hd : 0 < den * 2 ^ t := by positivity
  have hge := le_roundQuotient n (den * 2 ^ t)
  have hle := roundQuotient_le n (den * 2 ^ t)
  have hnear := roundQuotient_nearest n hd
  have hparity : (t * 2 ^ 23 + roundQuotient n (den * 2 ^ t)) % 2 = 0 ↔
      roundQuotient n (den * 2 ^ t) % 2 = 0 := by omega
  have hgrid : ∀ a, a * 2 ^ t * den = a * (den * 2 ^ t) := fun a => by ring
  rw [magnitudeUnits_pattern (by omega) (by omega), hgrid, hparity]
  by_cases hm : 2 ^ t ∣ magnitudeUnits m
  · obtain ⟨k, hk⟩ := hm
    rw [hk, Nat.mul_comm (2 ^ t), hgrid]
    exact hnear k
  · have ht : 0 < t := Nat.pos_of_ne_zero fun h0 => hm (by simp [h0])
    have hfoot : 2 ^ 23 * (den * 2 ^ t) ≤ n :=
      (Nat.mul_le_mul_right _ (hlead ht)).trans (Nat.div_mul_le_self ..)
    have hbelow : magnitudeUnits m * den < 2 ^ 23 * (den * 2 ^ t) := by
      rw [← hgrid]
      exact Nat.mul_lt_mul_of_pos_right
        (magnitudeUnits_lt (not_lt.1 (mt dvd_magnitudeUnits hm))) hden
    exact (hnear (2 ^ 23)).of_farther (by omega)

/-- The rounded magnitude has a nearest one among the values of all patterns with either sign. -/
theorem roundMagnitude_nearest_signed {num den : Nat} (hden : 0 < den)
    (hfin : roundMagnitude num den < 0x7F800000) {m : Nat} {v : Int}
    (hv : v.natAbs = magnitudeUnits m) :
    RoundsRather ((num * 2 ^ 149 : Nat) : Int)
      ((magnitudeUnits (roundMagnitude num den) * den : Nat) : Int) (v * den)
      (roundMagnitude num den % 2 = 0) := by
  rw [roundMagnitude_eq hfin]
  have hnear := roundedPattern_nearest (num * 2 ^ 149) hden
  obtain rfl | rfl := Int.natAbs_eq_iff.1 hv
  · exact_mod_cast hnear m
  · have hzero := hnear 0
    rw [show magnitudeUnits 0 * den = 0 by simp [magnitudeUnits]] at hzero
    refine hzero.opposite (Int.natCast_nonneg _) ?_
    rw [neg_mul]
    exact neg_nonpos.2 (by positivity)

/-! ### The rounded value -/

theorem rne32_toNat_mod (num : Int) (den : Nat) :
    (rne32 num den).toNat % 2 ^ 31 = roundMagnitude num.natAbs den := by
  have := roundMagnitude_le num.natAbs den
  by_cases h : num < 0
  · rw [rne32_toNat_neg h]; omega
  · rw [rne32_toNat_nonneg h]; omega

theorem unitsOf_rne32_neg {num : Int} (h : num < 0) (den : Nat) :
    unitsOf (rne32 num den) = -(magnitudeUnits (roundMagnitude num.natAbs den) : Int) := by
  rw [unitsOf_eq, rne32_toNat_mod, rne32_toNat_neg h, if_pos (Nat.le_add_right ..)]

theorem unitsOf_rne32_nonneg {num : Int} (h : ¬num < 0) (den : Nat) :
    unitsOf (rne32 num den) = magnitudeUnits (roundMagnitude num.natAbs den) := by
  have := roundMagnitude_le num.natAbs den
  rw [unitsOf_eq, rne32_toNat_mod, rne32_toNat_nonneg h, if_neg (by omega)]

/-- The last bit of the rounded pattern is its magnitude's. -/
theorem rne32_getLsbD_zero (num : Int) (den : Nat) :
    (rne32 num den).getLsbD 0 = false ↔ roundMagnitude num.natAbs den % 2 = 0 := by
  rw [← rne32_toNat_mod, BitVec.getLsbD, Nat.testBit_zero, decide_eq_false_iff_not]
  omega

/-- The rounded value is a nearest one, ties to even: a value below zero is the mirror image of its
magnitude. -/
theorem rne32_nearest (num : Int) {den : Nat} (hden : 0 < den)
    (hfin : (rne32 num den).toNat % 2 ^ 31 < 0x7F800000) (b : U32) :
    RoundsRather (num * 2 ^ 149) (unitsOf (rne32 num den) * den) (unitsOf b * den)
      ((rne32 num den).getLsbD 0 = false) := by
  rw [rne32_toNat_mod] at hfin
  rw [rne32_getLsbD_zero]
  have hnear := fun {v : Int} => roundMagnitude_nearest_signed hden hfin
    (m := b.toNat % 2 ^ 31) (v := v)
  by_cases h : num < 0
  · have hmirror := (hnear (v := -unitsOf b) (by rw [Int.natAbs_neg, unitsOf_natAbs])).neg
    rw [unitsOf_rne32_neg h]
    have hnum : num * 2 ^ 149 = -((num.natAbs * 2 ^ 149 : Nat) : Int) := by omega
    rw [hnum, neg_mul, ← Nat.cast_mul]
    rwa [neg_mul, neg_neg] at hmirror
  · have hnum : num * 2 ^ 149 = ((num.natAbs * 2 ^ 149 : Nat) : Int) := by omega
    rw [unitsOf_rne32_nonneg h, hnum, ← Nat.cast_mul]
    exact hnear (unitsOf_natAbs b)

/-- Settles O50: the scaled comparison of `rne32_nearest`, with the denominator cancelled. -/
theorem roundingIsToNearestTiesToEven : Obligations.RoundingIsToNearestTiesToEven := by
  unfold Obligations.RoundingIsToNearestTiesToEven
  intro num den b hden hfin _
  obtain ⟨hle, htie⟩ := rne32_nearest num hden hfin b
  exact ⟨hle, fun hne => htie fun he =>
    hne (mul_right_cancel₀ (Int.natCast_ne_zero.2 hden.ne') he)⟩

end Laws
end Sys2Proof
end

section
/-! What the statements about the registers share: the frame of a step of an idle block, the shape of
a busy step's invariant proofs, and the induction over runs. -/

namespace Sys2Proof
namespace Laws

open Machine

/-! ### A step of an idle block -/

/-- A phase in which an idle block's step leaves it: idle, or the first step of an operation. -/
def FromIdle (p : Phase) : Prop := p = .idle ∨ ∃ op, FirstStep op p

theorem fromIdle_mem {p : Phase} (h : FromIdle p) :
    p = .idle ∨ p = .b1 ∨ p = .r1 ∨ p = .m1 ∨ p = .h1 ∨ p = .x1 := by
  obtain rfl | ⟨op, ⟨-, rfl⟩ | ⟨-, rfl⟩ | ⟨-, rfl⟩ | ⟨-, rfl⟩ | ⟨-, rfl⟩⟩ := h <;> simp

/-- A step runs a step of the operation in progress, or it is a step of an idle block and writes
nothing but the request port, the bookkeeping and the status. -/
theorem step_idle_or_busy {s t : State} (h : step s = .next t) :
    (s.phase = .idle ∧ ∃ op arg b p st rq, FromIdle p ∧
      t = { s with curOp := op, curArg := arg, busy := b, phase := p, lastStatus := st,
                   reqs := rq }) ∨
    (s.phase ≠ .idle ∧ BusyStep s t) := by
  obtain ⟨hp, -, -, rfl⟩ | ⟨op, arg, first, hp, -, -, hf, -, rfl⟩ | ⟨st, hp, -, -, -, rfl⟩ | hb :=
    step_inversion h
  · exact .inl ⟨hp, _, _, _, t.phase, _, _, .inl hp, rfl⟩
  · exact .inl ⟨hp, op, arg, true, first, _, _, .inr ⟨op, hf⟩, rfl⟩
  · exact .inl ⟨hp, _, _, false, .idle, st, _, .inl rfl, rfl⟩
  · exact .inr hb

/-- An idle block with no request presented keeps its state. -/
theorem step_idle {s : State} (hp : s.phase = .idle) (hb : s.busy = false) (hr : s.reqs = []) :
    step s = .next s := by
  simp [step, fetch, hp, hb, hr]

/-! ### Runs -/

/-- What every step keeps, every run keeps. -/
theorem runSteps_keeps {P : State → Prop} (hstep : ∀ s t, P s → step s = .next t → P t) {s t : State}
    {k : Nat} (hs : P s) (h : runSteps k s = .next t) : P t := by
  induction k generalizing s with
  | zero =>
    rw [runSteps_zero] at h
    cases h
    exact hs
  | succ k ih =>
    unfold runSteps at h
    split at h
    · next u hu => exact ih (hstep s u hs hu) h
    · cases h
    · cases h

/-- Settles O13, by induction on the number of steps. -/
theorem idleBlockWithoutRequestKeepsItsState : Obligations.IdleBlockWithoutRequestKeepsItsState := by
  unfold Obligations.IdleBlockWithoutRequestKeepsItsState
  intro s k hp hb hr
  induction k with
  | zero => rfl
  | succ k ih => rw [runSteps_succ_next (step_idle hp hb hr), ih]

end Laws
end Sys2Proof
end

section
/-! O37: the bookkeeping invariant.  A step of an operation either passes on to another step, keeping
`BUSY` and `CUR_OP`, or ends the operation in `UNINIT` or `READY`. -/

namespace Sys2Proof
namespace Laws

open Machine

/-- An idle block in `UNINIT` or `READY` with `BUSY = 0` has agreeing bookkeeping. -/
theorem seqInv_of_idle {t : State} (hb : t.busy = false) (hp : t.phase = .idle)
    (hq : seqFitsPhase .idle t.seqState = true) : SeqInv t := by
  simp [SeqInv, hb, hp, hq, opFitsPhase]

/-- A step that ends or fails with the block in `READY` leaves agreeing bookkeeping. -/
theorem seqInv_endOp {st : Status} {u : State} (hq : seqFitsPhase .idle u.seqState = true) :
    SeqInv (endOp st u) :=
  seqInv_of_idle rfl rfl hq

theorem seqInv_failOp {st : Status} {q : SeqState} {u : State}
    (hq : seqFitsPhase .idle q = true) : SeqInv (failOp st q u) :=
  seqInv_of_idle rfl rfl hq

/-- The next step of an operation is a step of the same operation. -/
theorem nextPhase_some {p p' : Phase} (h : nextPhase p = some p') :
    p ≠ .idle ∧ p' ≠ .idle ∧ opFitsPhase p' = opFitsPhase p := by
  cases p <;> cases h <;> exact ⟨by simp, by simp, funext fun _ => rfl⟩

/-- A step that passes on to the next step of its operation. -/
theorem seqInv_passesOn {s t : State} (hi : SeqInv s) (hn : nextPhase s.phase = some t.phase)
    (hb : t.busy = s.busy) (ho : t.curOp = s.curOp)
    (hq : seqFitsPhase t.phase t.seqState = true) : SeqInv t := by
  obtain ⟨hbusy, -, hcur⟩ := hi
  obtain ⟨hs, ht, hop⟩ := nextPhase_some hn
  exact ⟨by rw [hb, hbusy, decide_eq_true hs, decide_eq_true ht], hq, by rwa [ho, hop]⟩

/-- Issuing a transaction leaves the bookkeeping alone. -/
theorem seqInv_issue {s : State} (x : Transaction) (hi : SeqInv s) : SeqInv (issue x s) := by
  simpa [SeqInv] using hi

/-- A first step fits the `SEQ_STATE` in which its operation is valid. -/
theorem fits_of_firstStep {op : BitVec 3} {first : Phase} {q : SeqState} (hf : FirstStep op first)
    (hv : validIn op q = true) (hq : seqFitsPhase .idle q = true) :
    first ≠ .idle ∧ seqFitsPhase first q = true ∧ opFitsPhase first op = true := by
  obtain ⟨rfl, rfl⟩ | ⟨rfl, rfl⟩ | ⟨rfl, rfl⟩ | ⟨rfl, rfl⟩ | ⟨hop, rfl⟩ := hf
  · exact ⟨by decide, hv, rfl⟩
  · exact ⟨by decide, hv, rfl⟩
  · exact ⟨by decide, hv, rfl⟩
  · exact ⟨by decide, hv, rfl⟩
  · exact ⟨by decide, hq, by obtain rfl | rfl | rfl := hop <;> rfl⟩

/-- Every step of an operation in progress keeps the bookkeeping. -/
theorem busyStep_seqInv {s t : State} (hi : SeqInv s) (h : BusyStep s t) : SeqInv t := by
  obtain ⟨-, hq, -⟩ := id hi
  cases h with
  | waits x _ => exact seqInv_issue x hi
  -- the steps that pass on to the next step and write `SEQ_STATE`
  | b1Acked _ hp | r1Acked _ hp | m1Acked _ hp | m4Matches hp =>
    exact seqInv_passesOn hi (by rw [hp]; rfl) (by simp) (by simp) rfl
  -- the steps that pass on to the next step and keep it
  | b2Done _ hp | b3Read _ _ hp | b4Alive hp | r2Done _ hp | m2Done _ hp | m3Read _ _ hp
  | m5Matches hp =>
    rw [hp] at hq
    exact seqInv_passesOn hi (by rw [hp]; rfl) (by simp) (by simp) (by simpa [seqFitsPhase] using hq)
  -- the steps that fail, and those that end in `READY`
  | b1Nacked | b3Failed | b4Degenerate | r1Nacked | m1Nacked | m3Failed | m4Differs | m5Differs =>
    exact seqInv_failOp rfl
  | b5Ends | r3Ends | m6Commits => exact seqInv_endOp rfl
  -- the operations that leave `SEQ_STATE` alone
  | h1Acked _ hp | h1Nacked _ hp =>
    rw [hp] at hq
    have hready : s.seqState = .ready := by simpa [seqFitsPhase] using hq
    exact seqInv_endOp (by simp [hready, seqFitsPhase])
  | x1Crc8 hp | x1ConvT hp | x1ConvRh hp =>
    rw [hp] at hq
    exact seqInv_endOp hq

/-- Settles O37, by the cases of a step. -/
theorem everyStepKeepsTheBookkeepingInvariant :
    Obligations.EveryStepKeepsTheBookkeepingInvariant := by
  unfold Obligations.EveryStepKeepsTheBookkeepingInvariant
  intro s t hi h
  obtain ⟨-, hq, -⟩ := id hi
  obtain ⟨-, -, -, rfl⟩ | ⟨op, arg, first, hp, -, -, hf, hv, rfl⟩ | ⟨st, hp, -, -, -, rfl⟩ |
    ⟨-, hb⟩ := step_inversion h
  · exact hi
  · rw [hp] at hq
    obtain ⟨hne, hseq, hop⟩ := fits_of_firstStep hf hv hq
    exact ⟨(decide_eq_true hne).symm, hseq, hop⟩
  · rw [hp] at hq
    exact seqInv_of_idle rfl rfl hq
  · exact busyStep_seqInv hi hb

end Laws
end Sys2Proof
end

section
/-! O39: the origin of a visible Measurement.  A step keeps the four registers, the parameters and the
conversation so far, unless it is the commit M6, whose reply has been checked. -/

namespace Sys2Proof
namespace Laws

open Machine

/-! ### Who writes the Measurement -/

/-- Only the commit step writes the Measurement registers. -/
theorem busyStep_sameMeasurement {s t : State} (h : BusyStep s t) (hp : s.phase ≠ .m6) :
    SameMeasurement s t := by
  cases h with
  | m6Commits hp' => exact absurd hp' hp
  | waits | b1Acked | b2Done | b3Read | b4Alive | r1Acked | r2Done | m1Acked | m2Done | m3Read
  | m4Matches | m5Matches => simp [SameMeasurement]
  | b1Nacked | b3Failed | b4Degenerate | r1Nacked | m1Nacked | m3Failed | m4Differs | m5Differs =>
    simp [SameMeasurement]
  | b5Ends | r3Ends | h1Acked | h1Nacked | x1Crc8 | x1ConvT | x1ConvRh => simp [SameMeasurement]

/-- The step due in M6 is the commit (R150). -/
theorem busyStep_m6 {s t : State} (h : BusyStep s t) (hp : s.phase = .m6) :
    t = measureM6 s := by
  cases h with
  | waits x hx => simp [stepTransaction, hp] at hx
  | m6Commits => rfl
  | _ => simp_all

/-- Settles O27, by the cases of a step. -/
theorem onlyTheCommitStepWritesTheMeasurement :
    Obligations.OnlyTheCommitStepWritesTheMeasurement := by
  unfold Obligations.OnlyTheCommitStepWritesTheMeasurement
  intro s t h
  obtain ⟨-, op, arg, b, p, st, rq, -, rfl⟩ | ⟨-, hb⟩ := step_idle_or_busy h
  · exact .inl (.refl s)
  · by_cases hp : s.phase = .m6
    · rw [busyStep_m6 hb hp]
      exact .inr ⟨hp, rfl, rfl, rfl, rfl⟩
    · exact .inl (busyStep_sameMeasurement hb hp)

/-! ### The invariant -/

/-- No step forgets an event of the conversation. -/
theorem busyStep_tpLog_subset {s t : State} (h : BusyStep s t) : s.tpLog ⊆ t.tpLog := by
  have hissue : ∀ x, s.tpLog ⊆ (issue x s).tpLog := fun x => by
    rw [issue_tpLog]
    split
    · exact List.Subset.refl _
    · exact List.subset_cons_self ..
  cases h with
  | waits x => exact hissue x
  | b1Acked | b2Done | b3Read | r1Acked | r2Done | m1Acked | m2Done | m3Read | b1Nacked | b3Failed
  | r1Nacked | m1Nacked | m3Failed | h1Acked | h1Nacked =>
    exact List.subset_cons_of_subset _ (hissue _)
  | b4Alive | b4Degenerate | b5Ends | r3Ends | m4Matches | m4Differs | m5Matches | m5Differs
  | x1Crc8 | x1ConvT | x1ConvRh => exact List.Subset.refl _
  | m6Commits => simp

/-- A Measurement that was visible keeps its origin while the registers are kept. -/
theorem measurementOf_of_same {r : Reply6} {s t : State} (h : MeasurementOf r s)
    (hm : SameMeasurement s t) (hc : t.cfg = s.cfg) (hl : s.tpLog ⊆ t.tpLog) :
    MeasurementOf r t := by
  obtain ⟨hr, hcrc, hT, hRh⟩ := h
  obtain ⟨-, hT', hRh', -⟩ := hm
  exact ⟨hl hr, hcrc, by rw [hT', hc, hT], by rw [hRh', hc, hRh]⟩

/-- What a step must do to keep the invariant where it keeps the registers. -/
theorem measInv_of_same {s t : State} (hi : MeasInv s) (hrx : rxChecked t)
    (hm : SameMeasurement s t) (hc : t.cfg = s.cfg) (hl : s.tpLog ⊆ t.tpLog) : MeasInv t := by
  obtain ⟨-, hvalid, hzero⟩ := hi
  obtain ⟨hV, hT, hRh, hTs⟩ := id hm
  refine ⟨hrx, fun hv => ?_, fun hv => ?_⟩
  · obtain ⟨r, hr⟩ := hvalid (hV ▸ hv)
    exact ⟨r, measurementOf_of_same hr hm hc hl⟩
  · rw [hT, hRh, hTs]
    exact hzero (hV ▸ hv)

/-- Where no CRC is due, nothing has to be known of `RX`. -/
theorem rxChecked_of_phase {t : State} (h4 : t.phase ≠ .m4) (h5 : t.phase ≠ .m5)
    (h6 : t.phase ≠ .m6) : rxChecked t := by
  unfold rxChecked
  split
  · exact absurd ‹_› h4
  · exact absurd ‹_› h5
  · exact absurd ‹_› h6
  · trivial

theorem rxChecked_of_idle {t : State} (h : t.phase = .idle) : rxChecked t :=
  rxChecked_of_phase (by simp [h]) (by simp [h]) (by simp [h])

/-- Issuing a transaction forgets nothing about `RX`: no CRC is due where one is issued. -/
theorem rxChecked_issue {s : State} {x : Transaction} (hx : stepTransaction s = some x) :
    rxChecked (issue x s) := by
  apply rxChecked_of_phase <;> intro hp <;> rw [issue_phase] at hp <;>
    simp [stepTransaction, hp] at hx

/-- Each step establishes what the next one needs to know of `RX` (R150): the read puts a reply into
it, and M4 and M5 each check one CRC byte. -/
theorem busyStep_rxChecked {s t : State} (hi : rxChecked s) (h : BusyStep s t) : rxChecked t := by
  cases h with
  | waits x hx => exact rxChecked_issue hx
  | b1Acked | b2Done | b3Read | b4Alive | r1Acked | r2Done | m1Acked | m2Done => trivial
  | b1Nacked | b3Failed | b4Degenerate | r1Nacked | m1Nacked | m3Failed | m4Differs | m5Differs =>
    trivial
  | b5Ends | r3Ends | m6Commits | h1Acked | h1Nacked | x1Crc8 | x1ConvT | x1ConvRh => trivial
  | m3Read r => exact List.mem_cons_self ..
  | m4Matches hp hc =>
    simp only [rxChecked, hp] at hi
    exact ⟨hi, hc⟩
  | m5Matches hp hc =>
    simp only [rxChecked, hp] at hi
    obtain ⟨hmem, ht⟩ := hi
    exact ⟨hmem, ht, hc⟩

/-- The commit publishes the checked reply in `RX` (R29, R152). -/
theorem measInv_commit {s : State} (hi : MeasInv s) (hp : s.phase = .m6) :
    MeasInv (measureM6 s) := by
  obtain ⟨hrx, -⟩ := hi
  simp only [rxChecked, hp] at hrx
  obtain ⟨hmem, hcrc⟩ := hrx
  refine ⟨trivial, fun _ => ⟨s.rx, ?_, hcrc, ?_, ?_⟩, fun hv => ?_⟩
  · simpa [measureM6] using hmem
  · simp [measureM6]
  · simp [measureM6]
  · simp [measureM6] at hv

/-- Every step of an operation in progress keeps the origin of the Measurement. -/
theorem busyStep_measInv {s t : State} (hi : MeasInv s) (h : BusyStep s t) : MeasInv t := by
  by_cases hp : s.phase = .m6
  · rw [busyStep_m6 h hp]
    exact measInv_commit hi hp
  · obtain ⟨hrx, -⟩ := id hi
    exact measInv_of_same hi (busyStep_rxChecked hrx h) (busyStep_sameMeasurement h hp)
      (busyStep_cfg h) (busyStep_tpLog_subset h)

/-- Settles O39, by the cases of a step. -/
theorem everyStepKeepsTheOriginOfTheMeasurement :
    Obligations.EveryStepKeepsTheOriginOfTheMeasurement := by
  unfold Obligations.EveryStepKeepsTheOriginOfTheMeasurement
  intro s t hi h
  obtain ⟨-, op, arg, b, p, st, rq, hp, rfl⟩ | ⟨-, hb⟩ := step_idle_or_busy h
  · refine measInv_of_same hi ?_ (.refl s) rfl (List.Subset.refl _)
    obtain rfl | rfl | rfl | rfl | rfl | rfl := fromIdle_mem hp <;> trivial
  · exact busyStep_measInv hi hb

end Laws
end Sys2Proof
end

section
/-! O28 to O31: who writes `RESULT`, `RX`, `SERIAL`, `SEQ_STATE` and `LAST_STATUS`. -/

namespace Sys2Proof
namespace Laws

open Machine

/-- Only X1 of the pure operations writes `RESULT` (R30). -/
theorem busyStep_result {s t : State} (h : BusyStep s t) :
    t.result = s.result ∨
    (s.phase = .x1 ∧
      ((s.curOp = 5 ∧ t.result = (crc8 (argImm s)).setWidth 32) ∨
        (s.curOp = 6 ∧ t.result = tempC s.cfg.convRounding (argImm s)) ∨
        (s.curOp = 7 ∧ t.result = rhPct s.cfg.convRounding (argImm s)))) := by
  cases h with
  | x1Crc8 hp ho => exact .inr ⟨hp, .inl ⟨ho, rfl⟩⟩
  | x1ConvT hp ho => exact .inr ⟨hp, .inr (.inl ⟨ho, rfl⟩)⟩
  | x1ConvRh hp ho => exact .inr ⟨hp, .inr (.inr ⟨ho, rfl⟩)⟩
  | _ => left; simp

/-- Settles O28, by the cases of a step. -/
theorem onlyThePureOperationsWriteResult : Obligations.OnlyThePureOperationsWriteResult := by
  unfold Obligations.OnlyThePureOperationsWriteResult
  refine ⟨fun s => rfl, fun s t h => ?_⟩
  obtain ⟨-, op, arg, b, p, st, rq, -, rfl⟩ | ⟨-, hb⟩ := step_idle_or_busy h
  · exact .inl rfl
  · exact busyStep_result hb

/-- Only the two reads write `RX` (R33). -/
theorem busyStep_rx {s t : State} (h : BusyStep s t) :
    t.rx = s.rx ∨
    (s.phase = .b3 ∧ ∃ r, s.replies4.head? = some (some r) ∧ t.rx = s.rx.withFirstFour r) ∨
    (s.phase = .m3 ∧ s.replies6.head? = some (some t.rx)) := by
  cases h with
  | b3Read r rest hp hr => exact .inr (.inl ⟨hp, r, by rw [hr]; rfl, rfl⟩)
  | m3Read r rest hp hr => exact .inr (.inr ⟨hp, by rw [hr]; rfl⟩)
  | _ => left; simp

/-- Only B4 writes `SERIAL` (R33). -/
theorem busyStep_serial {s t : State} (h : BusyStep s t) :
    t.serial = s.serial ∨ (s.phase = .b4 ∧ t.serial = s.rx.serialOfRx) := by
  cases h with
  | b4Degenerate hp => exact .inr ⟨hp, rfl⟩
  | b4Alive hp => exact .inr ⟨hp, rfl⟩
  | _ => left; simp

/-- Settles O29, by the cases of a step. -/
theorem onlyTheNamedStepsWriteTheBuffers : Obligations.OnlyTheNamedStepsWriteTheBuffers := by
  unfold Obligations.OnlyTheNamedStepsWriteTheBuffers
  intro s t h
  obtain ⟨-, op, arg, b, p, st, rq, -, rfl⟩ | ⟨-, hb⟩ := step_idle_or_busy h
  · exact ⟨.inl rfl, .inl rfl⟩
  · refine ⟨?_, busyStep_serial hb⟩
    obtain hrx | ⟨hp, r, hr, hrx⟩ | hm := busyStep_rx hb
    · exact .inl hrx
    · rw [hrx]
      exact .inr (.inl ⟨hp, rfl, rfl, r, hr, rfl, rfl, rfl, rfl⟩)
    · exact .inr (.inr hm)

/-- Which steps write `SEQ_STATE`, and with what (R23): B1, R1, M1 and M4 where they pass on, and the
ends of `BEGIN`, `RESET` and `MEASURE`. -/
theorem busyStep_seqState {s t : State} (h : BusyStep s t) :
    t.seqState = s.seqState ∨
    ((s.phase = .b1 ∨ s.phase = .r1) ∧ t.seqState = .reset) ∨
    (s.phase = .m1 ∧ t.seqState = .converting) ∨
    (s.phase = .m4 ∧ t.seqState = .decoded) ∨
    (s.phase ∈ [Phase.b1, .b3, .b4] ∧ t.lastStatus = .errTransport ∧ t.seqState = .uninit) ∨
    (s.phase ∈ [Phase.b5, .r1, .r3, .m1, .m3, .m4, .m5, .m6] ∧ t.busy = false ∧
      t.seqState = .ready) := by
  cases h with
  | waits | b2Done | b3Read | b4Alive | r2Done | m2Done | m3Read | m5Matches => simp
  | h1Acked | h1Nacked | x1Crc8 | x1ConvT | x1ConvRh => simp
  | b1Acked _ hp | r1Acked _ hp | m1Acked _ hp | m4Matches hp => simp [hp]
  | b1Nacked _ hp | b3Failed _ hp | b4Degenerate hp => simp [hp]
  | r1Nacked _ hp | m1Nacked _ hp | m3Failed _ hp | m4Differs hp | m5Differs hp => simp [hp]
  | b5Ends hp | r3Ends hp | m6Commits hp => simp [hp]

/-- Settles O30: the steps that write `SEQ_STATE`, each under its operation. -/
theorem onlyTheNamedOperationsWriteSeqState : Obligations.OnlyTheNamedOperationsWriteSeqState := by
  unfold Obligations.OnlyTheNamedOperationsWriteSeqState
  refine ⟨fun s => rfl, fun s t h hne => ?_⟩
  obtain ⟨-, op, arg, b, p, st, rq, -, rfl⟩ | ⟨-, hb⟩ := step_idle_or_busy h
  · exact absurd rfl hne
  · obtain hq | ⟨hp | hp, hq⟩ | ⟨hp, hq⟩ | ⟨hp, hq⟩ | ⟨hp, hst, hq⟩ | ⟨hp, hbusy, hq⟩ :=
      busyStep_seqState hb
    · exact absurd hq hne
    · exact .inl (by simp [hp, hq])
    · exact .inr (.inl (by simp [hp, hq]))
    · exact .inr (.inr (by simp [hp, hq]))
    · exact .inr (.inr (by simp [hp, hq]))
    · exact .inl ⟨List.mem_append_left [Phase.b5] hp, .inr (.inr ⟨hst, hq⟩)⟩
    · simp only [List.mem_cons, List.not_mem_nil, or_false] at hp
      obtain hp | hp | hp | hp | hp | hp | hp | hp := hp <;> simp [hp, hbusy, hq]

/-- A step of an operation keeps `LAST_STATUS`, or it ends the operation with a status other than
`NONE` (R122). -/
theorem busyStep_lastStatus {s t : State} (hp : s.phase ≠ .idle) (h : BusyStep s t) :
    (t.lastStatus = s.lastStatus ∧ t.phase ≠ .idle) ∨
    (t.lastStatus ≠ .noneYet ∧ t.phase = .idle ∧ t.busy = false) := by
  cases h with
  | waits | b1Acked | b2Done | b3Read | b4Alive | r1Acked | r2Done | m1Acked | m2Done | m3Read
  | m4Matches | m5Matches => simp [hp]
  | b1Nacked | b3Failed | b4Degenerate | r1Nacked | m1Nacked | m3Failed | m4Differs | m5Differs =>
    simp
  | b5Ends | r3Ends | m6Commits | h1Acked | h1Nacked | x1Crc8 | x1ConvT | x1ConvRh => simp

/-- Settles O31: acceptance keeps the status, a rejection leaves the block idle, and an operation
writes it at its end alone. -/
theorem statusIsWrittenOnlyAtTheEnd : Obligations.StatusIsWrittenOnlyAtTheEnd := by
  unfold Obligations.StatusIsWrittenOnlyAtTheEnd
  intro s t h
  obtain ⟨-, -, -, rfl⟩ | ⟨op, arg, first, hp, -, -, -, -, rfl⟩ | ⟨st, hp, -, -, -, rfl⟩ | ⟨hp, hb⟩ :=
    step_inversion h
  · exact ⟨fun hne => absurd rfl hne, fun hn hi => absurd hi hn⟩
  · exact ⟨fun hne => absurd rfl hne, fun hn => absurd hp hn⟩
  · exact ⟨fun _ => ⟨rfl, rfl⟩, fun hn => absurd hp hn⟩
  · obtain ⟨hst, hbusy⟩ | ⟨hst, hend⟩ := busyStep_lastStatus hp hb
    · exact ⟨fun hne => absurd hst hne, fun _ hi => absurd hi hbusy⟩
    · exact ⟨fun _ => hend, fun _ _ => hst⟩

end Laws
end Sys2Proof
end

section
/-! O7, O8, O12, O54: the codes and the read port, the step that `phase` names, and a read after a step. -/

namespace Sys2Proof
namespace Laws

open Machine

/-! ### The fields of `STATUS` (R31) -/

theorem statusWord_lastStatus (s : State) :
    (statusWord s).extractLsb' 0 3 = s.lastStatus.code := extract_low ..

theorem statusWord_bit3 (s : State) : (statusWord s).extractLsb' 3 1 = 0 := by
  rw [statusWord, BitVec.extractLsb'_append_eq_of_le (by decide)]
  exact extract_low ..

theorem statusWord_seqState (s : State) :
    (statusWord s).extractLsb' 4 3 = s.seqState.code := by
  rw [statusWord, BitVec.extractLsb'_append_eq_of_le (by decide),
    BitVec.extractLsb'_append_eq_of_le (by decide)]
  exact extract_low ..

theorem statusWord_busy (s : State) : (statusWord s).getLsbD 7 = s.busy := by
  simp only [statusWord, BitVec.getLsbD_append]
  simp

theorem statusWord_measValid (s : State) : (statusWord s).getLsbD 8 = s.measValid := by
  simp only [statusWord, BitVec.getLsbD_append]
  simp

theorem statusWord_high (s : State) : (statusWord s).extractLsb' 9 23 = 0 := by
  rw [statusWord]
  iterate 5 rw [BitVec.extractLsb'_append_eq_of_le (by decide)]
  simp

/-- Settles O8: the fields of `STATUS` one by one, and two reads by the rule of the act `rd`. -/
theorem readPortFollowsTheRegisterMap : Obligations.ReadPortFollowsTheRegisterMap := by
  unfold Obligations.ReadPortFollowsTheRegisterMap
  refine ⟨fun s => ⟨statusWord_lastStatus s, statusWord_bit3 s, statusWord_seqState s,
    statusWord_busy s, statusWord_measValid s, statusWord_high s,
    rfl, rfl, rfl, rfl, rfl, rfl, rfl⟩, by decide, fun h idx rest ha => ?_⟩
  exact ⟨_, _, hostedStep_rd ha, hostedStep_rd rfl, rfl, rfl, rfl⟩

/-- Settles O7: the tables of R22 and R76 row by row. -/
theorem stateAndStatusCodesAreTheTables : Obligations.StateAndStatusCodesAreTheTables :=
  ⟨rfl, rfl, rfl, rfl, rfl, rfl, rfl, rfl, rfl, rfl, rfl, rfl⟩

/-- Settles O54: `pass` hands the state after the step to the read. -/
theorem hostReadsBetweenStepsSeeTheLastCompletedStep :
    Obligations.HostReadsBetweenStepsSeeTheLastCompletedStep := by
  unfold Obligations.HostReadsBetweenStepsSeeTheLastCompletedStep
  intro h t idx rest ha ht
  exact ⟨_, (hostedStep_pass ha).trans (letBlockStep_of_next _ ht), hostedStep_rd rfl⟩

/-! ### The step that `phase` names -/

/-- With an operation in progress, a step is a step of the instruction fetched. -/
theorem step_of_running {s : State} {i : Instr} (h : fetch s = .running i) : step s = exec i s := by
  simp only [step, h]

theorem step_execBegin {s : State} (hp : s.phase ∈ [Phase.b1, .b2, .b3, .b4, .b5]) :
    step s = exec .begin s := by
  simp only [List.mem_cons, List.not_mem_nil, or_false] at hp
  obtain hp | hp | hp | hp | hp := hp <;>
    simp [step, fetch, exec, execBegin, execWireReset, execWireReadSerial, hp]

theorem step_execReset {s : State} (hp : s.phase ∈ [Phase.r1, .r2, .r3]) :
    step s = exec .reset s := by
  simp only [List.mem_cons, List.not_mem_nil, or_false] at hp
  obtain hp | hp | hp := hp <;> simp [step, fetch, exec, execReset, execWireReset, hp]

theorem step_execMeasure {s : State} (hp : s.phase ∈ [Phase.m1, .m2, .m3, .m4, .m5, .m6]) :
    step s = exec .measure s := by
  simp only [List.mem_cons, List.not_mem_nil, or_false] at hp
  obtain hp | hp | hp | hp | hp | hp := hp <;>
    simp [step, fetch, exec, execMeasure, execWireStartConversion, execWireReadTh, hp]

theorem step_execHeater {s : State} (hp : s.phase = .h1) : step s = exec (.heater (argOn s)) s := by
  cases ho : argOn s <;>
    simp [step, fetch, exec, execHeater, execWireHeaterOn, execWireHeaterOff, hp, ho]

/-- Settles O12: each label under the operation that owns it. -/
theorem busyStepRunsTheStepThatPhaseNames : Obligations.BusyStepRunsTheStepThatPhaseNames := by
  unfold Obligations.BusyStepRunsTheStepThatPhaseNames
  intro s
  exact ⟨fun hp => ⟨step_execBegin (by simp [hp]), step_of_running (by simp [fetch, hp])⟩,
    fun hp => step_execBegin (by simp [hp]),
    fun hp => ⟨step_execBegin (by simp [hp]), step_of_running (by simp [fetch, hp])⟩,
    fun hp => step_execBegin (by simp [hp]), fun hp => step_execBegin (by simp [hp]),
    fun hp => ⟨step_execReset (by simp [hp]), step_of_running (by simp [fetch, hp])⟩,
    fun hp => step_execReset (by simp [hp]), fun hp => step_execReset (by simp [hp]),
    fun hp => ⟨step_execMeasure (by simp [hp]), step_of_running (by simp [fetch, hp])⟩,
    fun hp => step_execMeasure (by simp [hp]),
    fun hp => ⟨step_execMeasure (by simp [hp]), step_of_running (by simp [fetch, hp])⟩,
    fun hp => step_execMeasure (by simp [hp]), fun hp => step_execMeasure (by simp [hp]),
    fun hp => step_execMeasure (by simp [hp]),
    fun hp => ⟨step_execHeater hp, step_of_running (by simp [fetch, hp])⟩,
    fun hp ho => step_of_running (by simp [fetch, fetchX1, hp, ho]),
    fun hp ho => step_of_running (by simp [fetch, fetchX1, hp, ho]),
    fun hp ho => step_of_running (by simp [fetch, fetchX1, hp, ho])⟩

end Laws
end Sys2Proof
end

section
/-! O10, O40: the order of the transport conversation is kept by every step, and with the two other
invariants, which hold after block reset, it holds along every run. -/

namespace Sys2Proof
namespace Laws

open Machine

/-! ### The transport order -/

/-- A step may issue its transaction where the conversation fits it. -/
theorem eventAllowed_of_fits {s : State} {x : Transaction} {history : List TpEvent}
    (hx : stepTransaction s = some x) (hf : logFitsPhase s.phase history = true) :
    eventAllowed history (.sent x) = true := by
  cases hp : s.phase <;> simp only [stepTransaction, hp, reduceCtorEq] at hx <;> cases hx <;>
    rw [hp] at hf
  -- H1 sends one of its two bytes
  case h1 => split <;> exact hf
  all_goals simpa [eventAllowed, logFitsPhase] using hf

/-- Once the transaction of the step is issued, it is the newest event of an ordered conversation, and
what came before fits the step. -/
theorem issue_history {s : State} {x : Transaction} (hi : TpInv s)
    (hx : stepTransaction s = some x) :
    ∃ history, (issue x s).tpLog = .sent x :: history ∧ logOrdered (.sent x :: history) = true ∧
      logFitsPhase s.phase history = true := by
  obtain ⟨hord, hdue⟩ := hi
  unfold logDue at hdue
  split at hdue
  -- the step is waiting already
  · next u history hl =>
    simp only [Bool.and_eq_true, beq_iff_eq] at hdue
    obtain ⟨hu, hf⟩ := hdue
    obtain rfl : x = u := Option.some.inj (hx.symm.trans hu)
    have hout : outstanding s = some x := outstanding_eq_some.2 (by rw [hl]; rfl)
    exact ⟨history, by rw [issue_of_outstanding hout, hl], hl ▸ hord, hf⟩
  -- it has not issued the transaction yet
  · next hn =>
    have hout : outstanding s ≠ some x := fun ho => by
      obtain ⟨l, hl⟩ := List.head?_eq_some_iff.1 (outstanding_eq_some.1 ho)
      exact hn x l hl
    refine ⟨s.tpLog, by rw [issue_tpLog, if_neg hout], ?_, hdue⟩
    simp [logOrdered, eventAllowed_of_fits hx hdue, hord]

/-- A waiting step keeps the order. -/
theorem tpInv_issue {s : State} {x : Transaction} (hi : TpInv s)
    (hx : stepTransaction s = some x) : TpInv (issue x s) := by
  obtain ⟨history, hl, hord, hf⟩ := issue_history hi hx
  have hx' : stepTransaction (issue x s) = some x := by
    simpa [stepTransaction, argOn] using hx
  refine ⟨hl ▸ hord, ?_⟩
  simp [logDue, hl, hx', hf]

/-- An answered step keeps the order where the conversation then fits the next phase. -/
theorem tpInv_of_answered {s t : State} {x : Transaction} {a : Answer} (hi : TpInv s)
    (hx : stepTransaction s = some x) (hl : t.tpLog = .answered a :: (issue x s).tpLog)
    (ha : answerFits x a = true)
    (hf : ∀ history, logFitsPhase s.phase history = true →
      logFitsPhase t.phase (.answered a :: .sent x :: history) = true) : TpInv t := by
  obtain ⟨history, hissued, hord, hfit⟩ := issue_history hi hx
  rw [hissued] at hl
  refine ⟨?_, ?_⟩
  · rw [hl]
    simpa [logOrdered, eventAllowed, ha] using hord
  · simp only [logDue, hl]
    exact hf history hfit

/-- A phase before which only a new command may have to be possible. -/
def QuietPhase (p : Phase) : Prop := logFitsPhase p = mayWrite

/-- A step that has no transaction is due only where a new command may be written. -/
theorem mayWrite_of_logDue {s : State} (hs : stepTransaction s = none) (h : logDue s = true) :
    mayWrite s.tpLog = true := by
  have hquiet : QuietPhase s.phase := by
    cases hp : s.phase <;> simp only [stepTransaction, hp, reduceCtorEq] at hs <;> rfl
  unfold logDue at h
  split at h
  · simp [hs] at h
  · rwa [hquiet] at h

/-- Where a new command may be written, no transaction is outstanding, and a quiet phase is due. -/
theorem logDue_of_mayWrite {t : State} (ht : QuietPhase t.phase) (h : mayWrite t.tpLog = true) :
    logDue t = true := by
  unfold logDue
  split
  · next hl => simp [hl, mayWrite] at h
  · rwa [ht]

/-- A step without a transaction keeps the order where it goes to a quiet phase. -/
theorem tpInv_of_same {s t : State} (hi : TpInv s) (hs : stepTransaction s = none)
    (hl : t.tpLog = s.tpLog) (ht : QuietPhase t.phase) : TpInv t := by
  obtain ⟨hord, hdue⟩ := hi
  exact ⟨hl ▸ hord, logDue_of_mayWrite ht (hl ▸ mayWrite_of_logDue hs hdue)⟩

/-- Every step of an operation in progress keeps the transport order. -/
theorem busyStep_tpInv {s t : State} (hi : TpInv s) (h : BusyStep s t) : TpInv t := by
  cases h with
  | waits x hx => exact tpInv_issue hi hx
  -- a command acknowledged, which a delay must follow
  | b1Acked _ hp | r1Acked _ hp | m1Acked _ hp =>
    exact tpInv_of_answered hi (by simp only [stepTransaction, hp]) rfl rfl fun _ _ => rfl
  -- a delay answered: the read after it looks back to the command before it
  | b2Done _ hp | m2Done _ hp =>
    refine tpInv_of_answered hi (by simp only [stepTransaction, hp]) rfl rfl fun history hf => ?_
    rw [hp] at hf
    exact hf
  | r2Done _ hp =>
    exact tpInv_of_answered hi (by simp only [stepTransaction, hp]) rfl rfl fun _ _ => rfl
  -- a read answered
  | b3Read _ _ hp | m3Read _ _ hp =>
    exact tpInv_of_answered hi (by simp only [stepTransaction, hp]) rfl rfl fun _ _ => rfl
  -- a command not acknowledged, or a read that failed
  | b1Nacked _ hp | r1Nacked _ hp | m1Nacked _ hp | b3Failed _ hp | m3Failed _ hp =>
    exact tpInv_of_answered hi (by simp only [stepTransaction, hp]) rfl rfl fun _ _ => rfl
  | h1Acked _ hp | h1Nacked _ hp =>
    refine tpInv_of_answered hi (by simp only [stepTransaction, hp]) rfl rfl fun _ _ => ?_
    cases argOn s <;> rfl
  -- the steps without a transaction
  | b4Alive hp | b4Degenerate hp | b5Ends hp | r3Ends hp | m4Matches hp | m4Differs hp
  | m5Matches hp | m5Differs hp | m6Commits hp | x1Crc8 hp | x1ConvT hp | x1ConvRh hp =>
    exact tpInv_of_same hi (by simp only [stepTransaction, hp]) (by simp) rfl

/-- Every step keeps the transport order (R63, R170 to R173, R240, R242). -/
theorem step_tpInv {s t : State} (hi : TpInv s) (h : step s = .next t) : TpInv t := by
  obtain ⟨hs, op, arg, b, p, st, rq, hp, rfl⟩ | ⟨-, hb⟩ := step_idle_or_busy h
  · refine tpInv_of_same hi (by simp only [stepTransaction, hs]) rfl ?_
    obtain rfl | rfl | rfl | rfl | rfl | rfl := fromIdle_mem hp <;> rfl
  · exact busyStep_tpInv hi hb

/-! ### Block reset, and the runs from it -/

/-- The three invariants at once. -/
def SafeInv (s : State) : Prop := SeqInv s ∧ TpInv s ∧ MeasInv s

/-- Every step keeps the three invariants. -/
theorem step_safeInv (s t : State) (hi : SafeInv s) (h : step s = .next t) : SafeInv t := by
  obtain ⟨hseq, htp, hmeas⟩ := hi
  exact ⟨everyStepKeepsTheBookkeepingInvariant s t hseq h, step_tpInv htp h,
    everyStepKeepsTheOriginOfTheMeasurement s t hmeas h⟩

theorem blockReset_safeInv (s : State) : SafeInv (blockReset s) :=
  ⟨⟨rfl, rfl, rfl⟩, ⟨rfl, rfl⟩, trivial, fun h => Bool.noConfusion h, fun _ => ⟨rfl, rfl, rfl⟩⟩

/-- Settles O10: the model's reset state is its own block reset. -/
theorem invariantsHoldAfterBlockReset : Obligations.InvariantsHoldAfterBlockReset := by
  unfold Obligations.InvariantsHoldAfterBlockReset
  intro s
  obtain ⟨hseq, htp, hmeas⟩ := blockReset_safeInv s
  exact ⟨hseq, htp, hmeas, rfl, blockReset_safeInv State.reset⟩

/-- Settles O40, by the induction over runs. -/
theorem everyRunFromBlockResetIsSafe : Obligations.EveryRunFromBlockResetIsSafe := by
  unfold Obligations.EveryRunFromBlockResetIsSafe
  intro s t k h
  obtain ⟨hseq, ⟨hord, -⟩, -, hvalid, -⟩ := runSteps_keeps step_safeInv (blockReset_safeInv s) h
  exact ⟨hseq, hord, hvalid⟩

end Laws
end Sys2Proof
end

section
/-! O41: an operation in progress ends within six steps.  `AnswersAhead` asks for the answers of the
steps still to come alone, so an answered step passes it on. -/

namespace Sys2Proof
namespace Laws

open Machine

/-- How many steps an operation takes at most from a step of it on. -/
def stepsLeft : Phase → Nat
  | .idle => 0
  | .b1 => 5
  | .b2 => 4
  | .b3 => 3
  | .b4 => 2
  | .b5 => 1
  | .r1 => 3
  | .r2 => 2
  | .r3 => 1
  | .m1 => 6
  | .m2 => 5
  | .m3 => 4
  | .m4 => 3
  | .m5 => 2
  | .m6 => 1
  | .h1 => 1
  | .x1 => 1

theorem stepsLeft_le (p : Phase) : stepsLeft p ≤ 6 := by cases p <;> decide

theorem stepsLeft_nextPhase {p p' : Phase} (h : nextPhase p = some p') :
    stepsLeft p = stepsLeft p' + 1 := by
  cases p <;> cases h <;> rfl

/-- The transport has an answer ready for each transaction that the operation in progress has still
to make. -/
def AnswersAhead (s : State) : Prop :=
  match s.phase with
  | .b1 => s.acks ≠ [] ∧ s.dones ≠ 0 ∧ s.replies4 ≠ []
  | .b2 => s.dones ≠ 0 ∧ s.replies4 ≠ []
  | .b3 => s.replies4 ≠ []
  | .r1 => s.acks ≠ [] ∧ s.dones ≠ 0
  | .r2 => s.dones ≠ 0
  | .m1 => s.acks ≠ [] ∧ s.dones ≠ 0 ∧ s.replies6 ≠ []
  | .m2 => s.dones ≠ 0 ∧ s.replies6 ≠ []
  | .m3 => s.replies6 ≠ []
  | .h1 => s.acks ≠ []
  | _ => True

theorem answersAhead_of_answersReady {s : State} (h : answersReady s) : AnswersAhead s := by
  obtain ⟨ha, hd, h4, h6⟩ := h
  unfold AnswersAhead
  split <;> simp [ha, hd, h4, h6]

/-- The step due is answered. -/
theorem not_unanswered_of_answersAhead {s : State} {x : Transaction} (h : AnswersAhead s)
    (hx : stepTransaction s = some x) : ¬unanswered s x := by
  cases hp : s.phase <;> simp only [stepTransaction, hp, reduceCtorEq] at hx <;> cases hx <;>
    simp_all [AnswersAhead, unanswered]

/-! ### An answered step moves on

A transport primitive whose continuations leave the phase stays in it only where it has no answer. -/

theorem tpWrite_stays {cmd : Byte} {f g : State → State} {s : State}
    (hf : ∀ u, (f u).phase ≠ s.phase) (hg : ∀ u, (g u).phase ≠ s.phase)
    (h : (tpWrite cmd f g s).phase = s.phase) : s.acks = [] := by
  obtain ⟨ha, -⟩ | ⟨rest, -, he⟩ | ⟨rest, -, he⟩ := tpWrite_cases (cmd := cmd) (f := f) (g := g) rfl
  · exact ha
  · exact absurd (he ▸ h) (hf _)
  · exact absurd (he ▸ h) (hg _)

theorem tpDelay_stays {ms : BitVec 16} {f : State → State} {s : State}
    (hf : ∀ u, (f u).phase ≠ s.phase) (h : (tpDelay ms f s).phase = s.phase) : s.dones = 0 := by
  obtain ⟨hd, -⟩ | ⟨n, -, he⟩ := tpDelay_cases (ms := ms) (f := f) rfl
  · exact hd
  · exact absurd (he ▸ h) (hf _)

theorem tpRead4_stays {cmd : Byte} {f : State → State} {g : Reply4 → State → State} {s : State}
    (hf : ∀ u, (f u).phase ≠ s.phase) (hg : ∀ r u, (g r u).phase ≠ s.phase)
    (h : (tpRead4 cmd f g s).phase = s.phase) : s.replies4 = [] := by
  obtain ⟨hr, -⟩ | ⟨rest, -, he⟩ | ⟨r, rest, -, he⟩ :=
    tpRead4_cases (cmd := cmd) (f := f) (g := g) rfl
  · exact hr
  · exact absurd (he ▸ h) (hf _)
  · exact absurd (he ▸ h) (hg _ _)

theorem tpRead6_stays {cmd : Byte} {f : State → State} {g : Reply6 → State → State} {s : State}
    (hf : ∀ u, (f u).phase ≠ s.phase) (hg : ∀ r u, (g r u).phase ≠ s.phase)
    (h : (tpRead6 cmd f g s).phase = s.phase) : s.replies6 = [] := by
  obtain ⟨hr, -⟩ | ⟨rest, -, he⟩ | ⟨r, rest, -, he⟩ :=
    tpRead6_cases (cmd := cmd) (f := f) (g := g) rfl
  · exact hr
  · exact absurd (he ▸ h) (hf _)
  · exact absurd (he ▸ h) (hg _ _)

/-- A step that stays in its phase has no answer for its transaction. -/
theorem unanswered_of_stays {s t : State} {x : Transaction} (h : phaseStep s = some t)
    (hs : t.phase = s.phase) (hx : stepTransaction s = some x) : unanswered s x := by
  cases hp : s.phase <;> simp only [stepTransaction, hp, reduceCtorEq] at hx <;> cases hx <;>
    simp only [phaseStep, hp, Option.some.injEq] at h <;> subst h
  case b1 | r1 | m1 | h1 => exact tpWrite_stays (by simp [hp]) (by simp [hp]) hs
  case b2 | r2 | m2 => exact tpDelay_stays (by simp [hp]) hs
  case b3 => exact tpRead4_stays (by simp [hp]) (by simp [hp]) hs
  case m3 => exact tpRead6_stays (by simp [hp]) (by simp [hp]) hs

/-- A block whose bookkeeping agrees has a step where an operation is in progress. -/
theorem exists_phaseStep {s : State} (hi : SeqInv s) (hp : s.phase ≠ .idle) :
    ∃ t, phaseStep s = some t := by
  obtain ⟨-, -, hop⟩ := hi
  cases hs : s.phase <;> simp only [phaseStep, hs]
  case idle => exact absurd hs hp
  -- X1 is the step of one of the three pure operations
  case x1 =>
    simp only [hs, opFitsPhase, Bool.or_eq_true, beq_iff_eq, or_assoc] at hop
    obtain ho | ho | ho := hop <;> simp [ho]
  all_goals exact ⟨_, rfl⟩

/-- A step of an operation waits, ends it, or passes on to its next step with the answers ahead still
ahead. -/
theorem busyStep_progress {s t : State} (h : BusyStep s t) (ha : AnswersAhead s) :
    (∃ x, stepTransaction s = some x ∧ t.phase = s.phase) ∨
      t.phase = .idle ∨ (nextPhase s.phase = some t.phase ∧ AnswersAhead t) := by
  cases h with
  | waits x hx => exact .inl ⟨x, hx, issue_phase x s⟩
  | b1Acked _ hp | r1Acked _ hp | m1Acked _ hp =>
    simp only [AnswersAhead, hp] at ha
    obtain ⟨-, ha⟩ := ha
    exact .inr (.inr ⟨by rw [hp]; rfl, by simpa [AnswersAhead] using ha⟩)
  | b2Done _ hp | m2Done _ hp =>
    simp only [AnswersAhead, hp] at ha
    obtain ⟨-, ha⟩ := ha
    exact .inr (.inr ⟨by rw [hp]; rfl, by simpa [AnswersAhead] using ha⟩)
  | r2Done _ hp | b3Read _ _ hp | b4Alive hp | m3Read _ _ hp | m4Matches hp | m5Matches hp =>
    exact .inr (.inr ⟨by rw [hp]; rfl, trivial⟩)
  | _ => exact .inr (.inl rfl)

/-- With its answers ahead, a step of an operation ends it or passes on to its next step. -/
theorem step_progress {s : State} (hi : SeqInv s) (hp : s.phase ≠ .idle) (ha : AnswersAhead s) :
    ∃ t, step s = .next t ∧ SeqInv t ∧
      (t.phase = .idle ∨ (nextPhase s.phase = some t.phase ∧ AnswersAhead t)) := by
  obtain ⟨t, ht⟩ := exists_phaseStep hi hp
  have hb := busyStep_of_phaseStep ht
  refine ⟨t, step_of_phaseStep ht, busyStep_seqInv hi hb, ?_⟩
  refine (busyStep_progress hb ha).resolve_left fun ⟨x, hx, hs⟩ => ?_
  exact not_unanswered_of_answersAhead ha hx (unanswered_of_stays ht hs hx)

/-- An operation in progress ends within the steps that its phase has left. -/
theorem ends_within_stepsLeft {s : State} (hi : SeqInv s) (hp : s.phase ≠ .idle)
    (ha : AnswersAhead s) :
    ∃ k t, k ≤ stepsLeft s.phase ∧ runSteps k s = .next t ∧ t.phase = .idle ∧ t.busy = false := by
  induction hn : stepsLeft s.phase generalizing s with
  | zero => cases hq : s.phase <;> simp_all [stepsLeft]
  | succ n ih =>
    obtain ⟨t, ht, hit, hend | ⟨hnext, hat⟩⟩ := step_progress hi hp ha
    · refine ⟨1, t, by omega, by rw [runSteps_succ_next ht, runSteps_zero], hend, ?_⟩
      obtain ⟨hbusy, -, -⟩ := hit
      simp [hbusy, hend]
    · obtain ⟨-, hpt, -⟩ := nextPhase_some hnext
      have hlt := stepsLeft_nextPhase hnext
      obtain ⟨k, u, hk, hrun, hu⟩ := ih hit hpt hat (by omega)
      exact ⟨k + 1, u, by omega, by rw [runSteps_succ_next ht, hrun], hu⟩

/-- Settles O41: no phase has more than six steps left. -/
theorem everyOperationEndsWithinSixAnsweredSteps :
    Obligations.EveryOperationEndsWithinSixAnsweredSteps := by
  unfold Obligations.EveryOperationEndsWithinSixAnsweredSteps
  intro s hi hp hready
  obtain ⟨k, t, hk, hrun⟩ := ends_within_stepsLeft hi hp (answersAhead_of_answersReady hready)
  exact ⟨k, t, hk.trans (stepsLeft_le _), hrun⟩

end Laws
end Sys2Proof
end

section
/-! O38, O26: what the steps do to the transport conversation.  Every step keeps its order; a step whose
transaction has no answer issues it, and from then on repeats itself. -/

namespace Sys2Proof
namespace Laws

open Machine

/-- Settles O38: an idle block's step adds no event, and a busy one adds what its phase calls for. -/
theorem everyStepKeepsTheTransportOrder : Obligations.EveryStepKeepsTheTransportOrder := by
  unfold Obligations.EveryStepKeepsTheTransportOrder
  intro s t hi h
  exact step_tpInv hi h

/-- Only a step of an operation in progress issues a transaction. -/
theorem busy_of_stepTransaction {s : State} {x : Transaction} (hi : SeqInv s)
    (hx : stepTransaction s = some x) : s.busy = true := by
  obtain ⟨hbusy, -, -⟩ := hi
  have hp : s.phase ≠ .idle := fun hp => by simp [stepTransaction, hp] at hx
  rw [hbusy, decide_eq_true hp]

/-- Issuing a transaction leaves the step that is due its transaction. -/
theorem stepTransaction_issue (x : Transaction) (s : State) :
    stepTransaction (issue x s) = stepTransaction s := by
  simp [stepTransaction, argOn]

/-- Issuing a transaction brings no answer. -/
theorem unanswered_issue (x y : Transaction) (s : State) :
    unanswered (issue x s) y ↔ unanswered s y := by
  cases y <;> simp [unanswered]

/-- Without an answer, the step that is due issues its transaction and does nothing else (R54). -/
theorem step_of_unanswered {s : State} {x : Transaction} (hx : stepTransaction s = some x)
    (hu : unanswered s x) : step s = .next (issue x s) := by
  apply step_of_phaseStep
  cases hp : s.phase <;> simp only [stepTransaction, hp, reduceCtorEq] at hx <;> cases hx <;>
    simp only [phaseStep, hp]
  case b1 | r1 | m1 | h1 => exact congrArg some (tpWrite_waits hu ..)
  case b2 | r2 | m2 => exact congrArg some (tpDelay_waits hu ..)
  case b3 => exact congrArg some (tpRead4_waits hu ..)
  case m3 => exact congrArg some (tpRead6_waits hu ..)

/-- However many steps follow, the transaction is issued once and the block waits (R54, R206). -/
theorem runSteps_of_unanswered {s : State} {x : Transaction} (hx : stepTransaction s = some x)
    (hu : unanswered s x) (k : Nat) : runSteps (k + 1) s = .next (issue x s) := by
  induction k generalizing s with
  | zero => rw [runSteps_succ_next (step_of_unanswered hx hu), runSteps_zero]
  | succ k ih =>
    have hrun := ih ((stepTransaction_issue x s).trans hx) ((unanswered_issue x x s).2 hu)
    rw [runSteps_succ_next (step_of_unanswered hx hu), hrun, issue_idem]

/-- Settles O26, by induction on the number of steps. -/
theorem unansweredTransactionLeavesTheBlockWaiting :
    Obligations.UnansweredTransactionLeavesTheBlockWaiting := by
  unfold Obligations.UnansweredTransactionLeavesTheBlockWaiting
  intro s x k hi hx hu
  refine ⟨?_, busy_of_stepTransaction hi hx⟩
  rw [runSteps_of_unanswered hx hu, issue_eta, issue_tpLog]
  simp only [outstanding_eq_some]

end Laws
end Sys2Proof
end

section
/-! O1, O2, O3, O6: the two formats and their tables.  A request word and its four fields are the
same thing, and the fields that pass the checks of R75 are those of exactly one instruction, so
decoding a word and encoding an instruction are each other's inverse. -/

namespace Sys2Proof
namespace Laws

/-! ### A request word and its fields (R71) -/

/-- The fields of the word with given fields are those fields. -/
theorem ofWord_toWord (f : ReqFields) : ReqFields.ofWord f.toWord = f := by
  obtain ⟨imm, rsv, h, op⟩ := f
  have himm : (imm ++ rsv ++ BitVec.ofBool h ++ op).extractLsb' 8 16 = imm := by
    iterate 2 rw [BitVec.extractLsb'_append_eq_of_le (by decide)]
    exact extract_high ..
  have hrsv : (imm ++ rsv ++ BitVec.ofBool h ++ op).extractLsb' 4 4 = rsv := by
    iterate 2 rw [BitVec.extractLsb'_append_eq_of_le (by decide)]
    exact extract_low ..
  have hh : (imm ++ rsv ++ BitVec.ofBool h ++ op).getLsbD 3 = h := by
    simp only [BitVec.getLsbD_append]
    simp
  have hop : (imm ++ rsv ++ BitVec.ofBool h ++ op).extractLsb' 0 3 = op := extract_low ..
  simp only [ReqFields.ofWord, ReqFields.toWord, himm, hrsv, hh, hop]

/-- A word is the concatenation of its fields. -/
theorem toWord_ofWord (w : Req) : (ReqFields.ofWord w).toWord = w := by
  have hbit : BitVec.ofBool (w.getLsbD 3) = w.extractLsb' 3 1 := by
    ext i hi
    obtain rfl : i = 0 := by omega
    simp
  simp only [ReqFields.toWord, ReqFields.ofWord, hbit]
  rw [BitVec.extractLsb'_append_extractLsb'_eq_extractLsb' (show 8 = 4 + 4 from rfl),
    BitVec.extractLsb'_append_extractLsb'_eq_extractLsb' (show 4 = 3 + 1 from rfl),
    BitVec.extractLsb'_append_extractLsb'_eq_extractLsb' (show 3 = 0 + 3 from rfl)]
  exact BitVec.extractLsb'_eq_self

/-! ### The fields of an instruction (R73, R75) -/

/-- The fields that an instruction stands for select it. -/
theorem select_of_fields? {i : Instr} {f : ReqFields} (h : i.fields? = some f) : f.select = i := by
  cases i <;> cases h <;> rfl

/-- The fields that an instruction stands for pass the checks. -/
theorem wellFormed_of_fields? {i : Instr} {f : ReqFields} (h : i.fields? = some f) :
    f.wellFormed = true := by
  simpa only [Instr.wellFormed, h] using wellFormed_all i

/-- The operation codes of R73: the reserved one, those without operand or switch, `HEATER`, and
those with an operand. -/
theorem op_cases (op : BitVec 3) :
    op = 0 ∨ (op = 1 ∨ op = 2 ∨ op = 3) ∨ op = 4 ∨ (op = 5 ∨ op = 6 ∨ op = 7) := by
  revert op
  decide

/-- What the checks of R75 ask of the fields. -/
theorem wellFormed_iff (f : ReqFields) :
    f.wellFormed = true ↔
      f.op ≠ 0 ∧ f.rsv = 0 ∧ (f.h = true → f.op = 4) ∧
        (f.op = 1 ∨ f.op = 2 ∨ f.op = 3 ∨ f.op = 4 → f.imm16 = 0) := by
  simp only [ReqFields.wellFormed, ReqFields.opOk, ReqFields.rsvOk, ReqFields.heaterBitOk,
    ReqFields.immOk, Bool.and_eq_true, Bool.or_eq_true, bne_iff_ne, beq_iff_eq, Bool.not_eq_true',
    ← Bool.not_eq_true, and_assoc, or_assoc, ← imp_iff_not_or, ← imp_iff_or_not]

/-- Fields that pass the checks are those of the instruction they select. -/
theorem fields?_select {f : ReqFields} (h : f.wellFormed = true) : f.select.fields? = some f := by
  rw [wellFormed_iff] at h
  obtain ⟨imm, rsv, heater, op⟩ := f
  obtain ⟨hop, hrsv, hh, himm⟩ := h
  obtain rfl : rsv = 0 := hrsv
  have hoff : op ≠ 4 → heater = false := fun h4 => Bool.eq_false_iff.2 fun ht => h4 (hh ht)
  obtain hzero | hbare | rfl | hoperand := op_cases op
  · exact absurd hzero hop
  · obtain rfl : imm = 0 := himm (by tauto)
    obtain rfl : heater = false := hoff (by rintro rfl; simp at hbare)
    obtain rfl | rfl | rfl := hbare <;> rfl
  · obtain rfl : imm = 0 := himm (by simp)
    rfl
  · obtain rfl : heater = false := hoff (by rintro rfl; simp at hoperand)
    obtain rfl | rfl | rfl := hoperand <;> rfl

/-- The decoder accepts the words whose fields pass the checks, and answers what they select. -/
theorem decodeReq_eq_ok_iff_select (w : Req) (i : Instr) :
    decodeReq w = .ok i ↔
      (ReqFields.ofWord w).wellFormed = true ∧ (ReqFields.ofWord w).select = i := by
  unfold decodeReq ReqFields.wellFormed
  dsimp only
  cases (ReqFields.ofWord w).opOk
  · simp
  cases (ReqFields.ofWord w).rsvOk
  · simp
  cases (ReqFields.ofWord w).heaterBitOk
  · simp
  cases (ReqFields.ofWord w).immOk <;> simp

/-- A word decodes to the instruction whose fields it has. -/
theorem decodeReq_eq_ok_iff_fields? (w : Req) (i : Instr) :
    decodeReq w = .ok i ↔ i.fields? = some (ReqFields.ofWord w) := by
  rw [decodeReq_eq_ok_iff_select]
  constructor
  · rintro ⟨hwf, rfl⟩
    exact fields?_select hwf
  · exact fun h => ⟨wellFormed_of_fields? h, select_of_fields? h⟩

/-- With `RSV` and `H` zero, the low byte of a word is its `OP`. -/
theorem toWord_of_operand (v : U16) (op : BitVec 3) :
    ReqFields.toWord { imm16 := v, rsv := 0, h := false, op } =
      v ++ ((0 : BitVec 5) ++ op : BitVec 8) := by
  apply BitVec.eq_of_toNat_eq
  simp only [ReqFields.toWord, append_toNat, BitVec.toNat_ofBool, Bool.toNat_false,
    BitVec.ofNat_eq_ofNat, BitVec.toNat_ofNat]
  omega

/-- An instruction with fields encodes as the word with those fields (R74). -/
theorem encode_of_fields? {i : Instr} {f : ReqFields} (h : i.fields? = some f) :
    encode i = .req24 f.toWord := by
  cases i with
  | heater on => cases h; cases on <;> rfl
  | crc8 v => cases h; exact congrArg Encoded.req24 (toWord_of_operand v 5).symm
  | convT v => cases h; exact congrArg Encoded.req24 (toWord_of_operand v 6).symm
  | convRh v => cases h; exact congrArg Encoded.req24 (toWord_of_operand v 7).symm
  | _ => cases h <;> rfl

/-- An instruction without fields is one of the six that a command byte stands for (R80). -/
theorem decode_encode_of_no_fields {i : Instr} (h : i.fields? = none) :
    decode (encode i) = .ok i := by
  cases i <;> cases h <;> rfl

/-! ### Decoding and encoding -/

/-- Settles O2: a request goes through its fields, and each command byte is its own row's. -/
theorem decodeOfEncodeIsTheInstruction : Obligations.DecodeOfEncodeIsTheInstruction := by
  unfold Obligations.DecodeOfEncodeIsTheInstruction
  intro i
  cases hf : i.fields? with
  | none => exact decode_encode_of_no_fields hf
  | some f =>
    rw [encode_of_fields? hf]
    exact (decodeReq_eq_ok_iff_fields? ..).2 (by rw [hf, ofWord_toWord])

/-- The encoding of the instruction that a command byte decodes to is that byte. -/
theorem encode_of_decodeWire {b : Byte} {i : Instr} (h : decodeWire b = .ok i) :
    encode i = .wire8 b := by
  have hb : isCommandByte b = true := by simp only [isCommandByte, h]
  obtain rfl | rfl | rfl | rfl | rfl | rfl := (isCommandByte_iff b).1 hb <;> cases h <;> rfl

/-- Settles O3: the word is rebuilt from the fields of the instruction it decodes to. -/
theorem encodeOfDecodeIsTheWord : Obligations.EncodeOfDecodeIsTheWord := by
  unfold Obligations.EncodeOfDecodeIsTheWord
  intro e i h
  cases e with
  | req24 w => rw [encode_of_fields? ((decodeReq_eq_ok_iff_fields? w i).1 h), toWord_ofWord]
  | wire8 b => exact encode_of_decodeWire h

/-- A word decodes to the instruction that encodes as it. -/
theorem decode_eq_ok_iff (e : Encoded) (i : Instr) : decode e = .ok i ↔ encode i = e := by
  constructor
  · exact encodeOfDecodeIsTheWord e i
  · rintro rfl
    exact decodeOfEncodeIsTheInstruction i

/-- Settles O6: the bytes that decode are the table's command bytes. -/
theorem exactlySixCommandBytesDecode : Obligations.ExactlySixCommandBytesDecode := by
  unfold Obligations.ExactlySixCommandBytesDecode
  intro b
  refine Iff.trans ?_ (isCommandByte_iff b)
  unfold isCommandByte
  cases decodeWire b <;> simp

/-- A table word that stands for an instruction's encoding decodes to the instruction. -/
theorem decodeTableWord_of_encode {nbits w : Nat} {i : Instr}
    (h : encodedOfTableWord nbits w = some (encode i)) : decodeTableWord nbits w = some i := by
  simp only [decodeTableWord, h, decodeOfEncodeIsTheInstruction i]

/-- Settles O1, row by row: each word is the encoding of its instruction. -/
theorem tableWordsDecodeToTheirInstructions : Obligations.TableWordsDecodeToTheirInstructions := by
  unfold Obligations.TableWordsDecodeToTheirInstructions
  and_intros <;> exact decodeTableWord_of_encode rfl

end Laws
end Sys2Proof
end

section
/-! O4, O5: the rows of R74 by match and mask, and the words of R75. -/

namespace Sys2Proof
namespace Laws

open Machine

/-! ### The illegal words (R75) -/

/-- The words of R75 are those whose fields fail a check. -/
theorem illegalWord_iff (w : Req) :
    IllegalWord w ↔ ¬(ReqFields.ofWord w).wellFormed = true := by
  rw [wellFormed_iff]
  unfold IllegalWord ReqFields.ofWord
  tauto

/-- A word is rejected exactly where it decodes to no instruction. -/
theorem decodeReq_error_iff (w : Req) :
    (∃ r, decodeReq w = .error r) ↔ ¬∃ i, decodeReq w = .ok i := by
  cases decodeReq w <;> simp

/-- Settles O5: a word is rejected where its fields fail a check. -/
theorem illegalWordsAreThoseTheEncodingRulesList :
    Obligations.IllegalWordsAreThoseTheEncodingRulesList := by
  unfold Obligations.IllegalWordsAreThoseTheEncodingRulesList
  intro w
  rw [illegalWord_iff, decodeReq_error_iff]
  simp only [decodeReq_eq_ok_iff_select, exists_and_left, exists_eq', and_true]

/-! ### The rows of R74 -/

/-- A request word decodes to the instruction that encodes as it. -/
theorem decodeReq_eq_ok_iff_encode (w : Req) (i : Instr) :
    decodeReq w = .ok i ↔ encode i = .req24 w :=
  decode_eq_ok_iff (.req24 w) i

/-- A row whose mask is full holds one word. -/
theorem fullRow_iff (w pat : Req) : Encoded.req24 pat = .req24 w ↔ w &&& 0xFFFFFF = pat := by
  have hmask : w &&& 0xFFFFFF = w := BitVec.and_allOnes
  rw [hmask, Encoded.req24.injEq, eq_comm]

/-- The row of `HEATER` leaves bit 3 open. -/
theorem heaterRow_iff (w : Req) (on : Bool) :
    encode (.heater on) = .req24 w ↔ w &&& 0xFFFFF7 = 0x000004 ∧ w.getLsbD 3 = on := by
  constructor
  · intro h
    cases h
    cases on <;> decide
  · rintro ⟨hm, hbit⟩
    have hsplit : w = w &&& 0xFFFFF7 ||| w &&& BitVec.twoPow 24 3 := by
      rw [← BitVec.and_or_distrib_left]
      exact BitVec.and_allOnes.symm
    rw [hsplit, hm, BitVec.and_twoPow, hbit]
    cases on <;> rfl

/-- An operand row fixes the low byte and leaves bits 23 to 8 to the operand. -/
theorem operandRow_iff (w : Req) (v : U16) (b : Byte) :
    Encoded.req24 (v ++ b) = .req24 w ↔
      w &&& 0x0000FF = b.setWidth 24 ∧ w.extractLsb' 8 16 = v := by
  constructor
  · intro h
    cases h
    exact ⟨InItsRow.low_byte v b, extract_high v b⟩
  · rintro ⟨hm, rfl⟩
    have hw : w.extractLsb' 8 16 ++ w.extractLsb' 0 8 = w := by
      rw [BitVec.extractLsb'_append_extractLsb'_eq_extractLsb' (show 8 = 0 + 8 from rfl)]
      exact BitVec.extractLsb'_eq_self
    have hb : w.extractLsb' 0 8 = b := by
      rw [← hw, InItsRow.low_byte] at hm
      simpa using congrArg (BitVec.setWidth 8) hm
    rw [← hb, hw]

/-- The row of R74 that a request lies in, as (match, mask). -/
def rowOf? : Instr → Option (Req × Req)
  | .begin => some (0x000001, 0xFFFFFF)
  | .reset => some (0x000002, 0xFFFFFF)
  | .measure => some (0x000003, 0xFFFFFF)
  | .heater _ => some (0x000004, 0xFFFFF7)
  | .crc8 _ => some (0x000005, 0x0000FF)
  | .convT _ => some (0x000006, 0x0000FF)
  | .convRh _ => some (0x000007, 0x0000FF)
  | _ => none

/-- A word that decodes matches the row of its instruction. -/
theorem matches_rowOf? {w : Req} {i : Instr} {r : Req × Req} (h : decodeReq w = .ok i)
    (hr : rowOf? i = some r) : w &&& r.2 = r.1 := by
  rw [decodeReq_eq_ok_iff_encode] at h
  cases i <;> cases hr
  case begin | reset | measure => exact (fullRow_iff ..).1 h
  case heater on => exact ((heaterRow_iff ..).1 h).1
  case crc8 v | convT v | convRh v => exact ((operandRow_iff ..).1 h).1

/-- A word that matches a row decodes to an instruction of that row. -/
theorem exists_decodeReq_of_matches {w : Req} {r : Req × Req} (hr : r ∈ requestRows)
    (hm : w &&& r.2 = r.1) : ∃ i, decodeReq w = .ok i ∧ rowOf? i = some r := by
  simp only [decodeReq_eq_ok_iff_encode]
  simp only [requestRows, List.mem_cons, List.not_mem_nil, or_false] at hr
  obtain rfl | rfl | rfl | rfl | rfl | rfl | rfl := hr
  · exact ⟨.begin, (fullRow_iff ..).2 hm, rfl⟩
  · exact ⟨.reset, (fullRow_iff ..).2 hm, rfl⟩
  · exact ⟨.measure, (fullRow_iff ..).2 hm, rfl⟩
  · exact ⟨.heater _, (heaterRow_iff ..).2 ⟨hm, rfl⟩, rfl⟩
  · exact ⟨.crc8 _, (operandRow_iff ..).2 ⟨hm, rfl⟩, rfl⟩
  · exact ⟨.convT _, (operandRow_iff ..).2 ⟨hm, rfl⟩, rfl⟩
  · exact ⟨.convRh _, (operandRow_iff ..).2 ⟨hm, rfl⟩, rfl⟩

/-- An instruction with fields has a row. -/
theorem exists_rowOf? {i : Instr} {f : ReqFields} (h : i.fields? = some f) :
    ∃ r ∈ requestRows, rowOf? i = some r := by
  cases i <;> cases h <;> exact ⟨_, by decide, rfl⟩

/-- A legal word matches the row of its instruction and no other. -/
theorem rowsMatched_of_ok {w : Req} {i : Instr} (h : decodeReq w = .ok i) : rowsMatched w = 1 := by
  obtain ⟨r, hr, hi⟩ := exists_rowOf? ((decodeReq_eq_ok_iff_fields? w i).1 h)
  have hown : ∀ r' ∈ requestRows, (w &&& r'.2 == r'.1) = (r' == r) := by
    intro r' hr'
    rw [Bool.eq_iff_iff, beq_iff_eq, beq_iff_eq]
    constructor
    · intro hm
      obtain ⟨i', hi', hrow⟩ := exists_decodeReq_of_matches hr' hm
      obtain rfl : i = i' := Except.ok.inj (h.symm.trans hi')
      exact Option.some.inj (hrow.symm.trans hi)
    · rintro rfl
      exact matches_rowOf? h hi
  rw [rowsMatched, List.filter_congr hown, List.filter_beq, List.length_replicate]
  exact List.count_eq_one_of_mem (by decide) hr

/-- An illegal word matches no row. -/
theorem rowsMatched_of_error {w : Req} {e : IllegalReason} (h : decodeReq w = .error e) :
    rowsMatched w = 0 := by
  rw [rowsMatched, List.length_eq_zero_iff, List.filter_eq_nil_iff]
  intro r hr hm
  obtain ⟨i, hi, -⟩ := exists_decodeReq_of_matches hr (beq_iff_eq.1 hm)
  cases h.symm.trans hi

/-- Settles O4: a word that decodes matches its own row, and the others match none. -/
theorem legalWordsMatchExactlyOneRow : Obligations.LegalWordsMatchExactlyOneRow := by
  unfold Obligations.LegalWordsMatchExactlyOneRow
  intro w
  have hrows : rowsMatched w ≤ 1 ∧ ((∃ i, decodeReq w = .ok i) ↔ rowsMatched w = 1) := by
    cases hd : decodeReq w with
    | ok i => simp [rowsMatched_of_ok hd]
    | error e => simp [rowsMatched_of_error hd]
  obtain ⟨hle, hone⟩ := hrows
  have hdec := decodeReq_eq_ok_iff_encode w
  exact ⟨hle, hone, (hdec _).trans (fullRow_iff ..), (hdec _).trans (fullRow_iff ..),
    (hdec _).trans (fullRow_iff ..), fun on => (hdec _).trans (heaterRow_iff w on),
    fun v => (hdec _).trans (operandRow_iff w v 5), fun v => (hdec _).trans (operandRow_iff w v 6),
    fun v => (hdec _).trans (operandRow_iff w v 7)⟩

end Laws
end Sys2Proof
end

section
/-! O35: what a step adds to the transport conversation: nothing, or the transaction of its phase
where it is not already waiting for it, and the answer where one has come. -/

namespace Sys2Proof
namespace Laws

open Machine

/-- What the conversation can have become after a step of an operation: what it was, or the step's
transaction issued, answered or not. -/
theorem busyStep_tpLog {s t : State} (h : BusyStep s t) :
    t.tpLog = s.tpLog ∨
    ∃ x, stepTransaction s = some x ∧
      (t.tpLog = (issue x s).tpLog ∨ ∃ a, t.tpLog = .answered a :: (issue x s).tpLog) := by
  cases h with
  | waits x hx => exact .inr ⟨x, hx, .inl rfl⟩
  -- the steps whose transaction is answered
  | b1Acked _ hp | b1Nacked _ hp | b2Done _ hp | b3Failed _ hp | b3Read _ _ hp | r1Acked _ hp
  | r1Nacked _ hp | r2Done _ hp | m1Acked _ hp | m1Nacked _ hp | m2Done _ hp | m3Failed _ hp
  | m3Read _ _ hp | h1Acked _ hp | h1Nacked _ hp =>
    exact .inr ⟨_, by simp only [stepTransaction, hp], .inr ⟨_, rfl⟩⟩
  -- the steps without a transaction
  | b4Alive | b4Degenerate | b5Ends | r3Ends | m4Matches | m4Differs | m5Matches | m5Differs
  | x1Crc8 | x1ConvT | x1ConvRh => exact .inl rfl
  | m6Commits => exact .inl (by simp)

/-- Issuing adds the transaction, unless the step waits for it already. -/
theorem issue_tpLog_eq_append (x : Transaction) (s : State) :
    ∃ new, (issue x s).tpLog = new ++ s.tpLog ∧ (new = [] ∨ new = [.sent x]) := by
  by_cases ho : outstanding s = some x
  · exact ⟨[], by rw [issue_of_outstanding ho]; rfl, .inl rfl⟩
  · exact ⟨[.sent x], by rw [issue_tpLog, if_neg ho]; rfl, .inr rfl⟩

/-- The transactions of the nine steps that have one (R130, R140, R150, R160). -/
theorem stepTransaction_cases {s : State} {x : Transaction} (h : stepTransaction s = some x) :
    (x = .write 0x1E ∧ (s.phase = .b1 ∨ s.phase = .r1)) ∨
    (x = .write 0x40 ∧ s.phase = .m1) ∨
    (x = .write 0x04 ∧ s.phase = .h1 ∧ s.curArg.getLsbD 16 = true) ∨
    (x = .write 0x02 ∧ s.phase = .h1 ∧ s.curArg.getLsbD 16 = false) ∨
    (x = .delay 15 ∧ (s.phase = .b2 ∨ s.phase = .r2)) ∨
    (x = .delay 20 ∧ s.phase = .m2) ∨
    (x = .read 0x0A 4 ∧ s.phase = .b3) ∨
    (x = .read 0x00 6 ∧ s.phase = .m3) := by
  cases hp : s.phase <;> simp only [stepTransaction, hp, reduceCtorEq] at h <;> cases h
  -- H1 sends the byte of its switch position
  case h1 =>
    cases ho : argOn s
    · exact .inr (.inr (.inr (.inl ⟨rfl, rfl, ho⟩)))
    · exact .inr (.inr (.inl ⟨rfl, rfl, ho⟩))
  all_goals simp

/-- Every step adds at most its transaction and the answer to it. -/
theorem step_tpLog {s t : State} (h : step s = .next t) :
    ∃ new : List TpEvent, t.tpLog = new ++ s.tpLog ∧
      (new = [] ∨ (∃ a, new = [.answered a]) ∨ (∃ x, new = [.sent x]) ∨
        ∃ a x, new = [.answered a, .sent x]) ∧
      ∀ x, .sent x ∈ new → stepTransaction s = some x := by
  obtain ⟨-, op, arg, b, p, st, rq, -, rfl⟩ | ⟨-, hb⟩ := step_idle_or_busy h
  · exact ⟨[], rfl, .inl rfl, by simp⟩
  obtain hl | ⟨x, hx, hl⟩ := busyStep_tpLog hb
  · exact ⟨[], hl, .inl rfl, by simp⟩
  obtain ⟨new, hissue, hnew⟩ := issue_tpLog_eq_append x s
  rw [hissue] at hl
  obtain hl | ⟨a, hl⟩ := hl <;> obtain rfl | rfl := hnew
  · exact ⟨_, hl, by simp, by simp⟩
  · exact ⟨_, hl, by simp, by simp [hx]⟩
  · exact ⟨[.answered a], hl, by simp, by simp⟩
  · exact ⟨[.answered a, .sent x], hl, by simp, by simp [hx]⟩

/-- Settles O35: a step issues its own transaction alone, and R81 follows from the list of them. -/
theorem transactionsAreSentOnlyByTheirSteps : Obligations.TransactionsAreSentOnlyByTheirSteps := by
  unfold Obligations.TransactionsAreSentOnlyByTheirSteps
  intro s t h
  obtain ⟨new, hl, hshape, hsent⟩ := step_tpLog h
  exact ⟨new, hl, hshape, fun x hx => stepTransaction_cases (hsent x hx)⟩

end Laws
end Sys2Proof
end

section
/-! O46: the masked update of R100 is the plain exclusive OR, because `poly` never leaves `mask`. -/

namespace Sys2Proof
namespace Laws

open Machine

/-- Every set bit of `poly` lies inside `mask` (R102). -/
def PolyInsideMask (r : CrcRegs) : Prop := r.poly &&& ~~~r.mask = 0

theorem crcStart_polyInsideMask (v : U16) : PolyInsideMask (crcStart v) := by
  change (0x988000 : BitVec 24) &&& ~~~0xFF8000 = 0
  decide

/-- No bit of `poly` is set where `mask` is clear. -/
theorem PolyInsideMask.getLsbD {r : CrcRegs} (h : PolyInsideMask r) {i : Nat} (hi : i < 24) :
    (r.poly.getLsbD i && !r.mask.getLsbD i) = false := by
  have hbit := congrArg (BitVec.getLsbD · i) h
  simpa [hi] using hbit

/-- A round moves `poly` and `mask` by the same one bit. -/
theorem PolyInsideMask.round {r : CrcRegs} (h : PolyInsideMask r) : PolyInsideMask (crcRound r) := by
  refine BitVec.eq_of_getLsbD_eq fun i hi => ?_
  rw [crcRound_poly, crcRound_mask]
  by_cases hlast : 1 + i < 24
  · simpa [hi] using h.getLsbD hlast
  · simp [BitVec.getLsbD_of_ge r.poly (1 + i) (by omega)]

theorem PolyInsideMask.iterate {r : CrcRegs} (h : PolyInsideMask r) (k : Nat) :
    PolyInsideMask (crcRound^[k] r) := by
  induction k with
  | zero => exact h
  | succ k ih => rw [Function.iterate_succ_apply']; exact ih.round

/-- Inside `mask` the update flips the bits of `poly`; outside, `poly` has no bit to flip. -/
theorem PolyInsideMask.update {r : CrcRegs} (h : PolyInsideMask r) (x : BitVec 24) :
    ((x ^^^ r.poly) &&& r.mask) ||| (x &&& ~~~r.mask) = x ^^^ r.poly := by
  refine BitVec.eq_of_getLsbD_eq fun i hi => ?_
  rw [BitVec.getLsbD_or, BitVec.getLsbD_and, BitVec.getLsbD_xor, BitVec.getLsbD_and,
    BitVec.getLsbD_not]
  cases hm : r.mask.getLsbD i
  · have hpoly : r.poly.getLsbD i = false := by simpa [hm] using h.getLsbD hi
    rw [hpoly]
    simp [hi]
  · simp

theorem crcRound_eq_unmasked {r : CrcRegs} (h : PolyInsideMask r) :
    crcRound r = crcRoundUnmasked r := by
  simp only [crcRoundUnmasked, crcRound, h.update]

theorem iterate_eq_unmasked {r : CrcRegs} (h : PolyInsideMask r) (k : Nat) :
    crcRound^[k] r = crcRoundUnmasked^[k] r := by
  induction k with
  | zero => rfl
  | succ k ih =>
    rw [Function.iterate_succ_apply', Function.iterate_succ_apply', ← ih,
      crcRound_eq_unmasked (h.iterate k)]

/-- Settles O46: `poly` lies inside `mask` at the start and after every round. -/
theorem crcMaskHasNoEffect : Obligations.CrcMaskHasNoEffect := by
  unfold Obligations.CrcMaskHasNoEffect
  have inside v k : PolyInsideMask (crcRound^[k] (crcStart v)) :=
    (crcStart_polyInsideMask v).iterate k
  refine ⟨fun v k _ => inside v k, fun v k x _ => (inside v k).update x, fun v => ?_⟩
  rw [crc8_eq_rounds, iterate_eq_unmasked (crcStart_polyInsideMask v), crc8Unmasked]

end Laws
end Sys2Proof
end

section
/-! The loop of R100 as a long division: what `result` is after each round. -/

namespace Sys2Proof
namespace Laws

open Machine

/-- `result` after `k` rounds (R100). -/
def resultAfter (k : Nat) (v : U16) : BitVec 24 := (crcRound^[k] (crcStart v)).result

theorem resultAfter_zero (v : U16) : resultAfter 0 v = v.setWidth 24 <<< 8 := rfl

theorem crc8_eq_resultAfter (v : U16) : crc8 v = (resultAfter 16 v).setWidth 8 := crc8_eq_rounds v

/-- `poly` after some rounds. -/
theorem iterate_poly (n : Nat) (r : CrcRegs) : (crcRound^[n] r).poly = r.poly >>> n := by
  induction n with
  | zero => simp
  | succ n ih => rw [Function.iterate_succ_apply', crcRound_poly, ih, BitVec.shiftRight_add]

/-- `msb` selects bit `23 - k` in round `k`. -/
theorem msb_shifted {k : Nat} (hk : k < 16) :
    (0x800000 : BitVec 24) >>> k = BitVec.twoPow 24 (23 - k) := by
  interval_cases k <;> decide

/-- The test of R100 reads the bit that `msb` selects. -/
theorem and_twoPow_ne_zero_iff {w i : Nat} (hi : i < w) (x : BitVec w) :
    x &&& BitVec.twoPow w i ≠ 0 ↔ x.getLsbD i = true := by
  have hbit : BitVec.twoPow w i ≠ 0 := fun h => by
    have := congrArg (BitVec.getLsbD · i) h
    simp [hi] at this
  rw [BitVec.and_twoPow]
  by_cases hx : x.getLsbD i = true
  · simpa [hx] using hbit
  · simp [hx]

/-- Round `k` takes `P(x)`, aligned to bit `23 - k`, away from `result` where that bit
is set (R102). -/
theorem resultAfter_succ {k : Nat} (hk : k < 16) (v : U16) :
    resultAfter (k + 1) v =
      if (resultAfter k v).getLsbD (23 - k) then resultAfter k v ^^^ (0x988000 : BitVec 24) >>> k
      else resultAfter k v := by
  have hmsb : (crcRound^[k] (crcStart v)).msb = BitVec.twoPow 24 (23 - k) :=
    (iterate_msb k _).trans (msb_shifted hk)
  have hpoly : (crcRound^[k] (crcStart v)).poly = (0x988000 : BitVec 24) >>> k := iterate_poly k _
  unfold resultAfter
  rw [Function.iterate_succ_apply', crcRound_eq_unmasked ((crcStart_polyInsideMask v).iterate k)]
  simp only [crcRoundUnmasked, hmsb, hpoly, and_twoPow_ne_zero_iff (show 23 - k < 24 by omega)]

end Laws
end Sys2Proof
end

section
/-! O49: functions linear over exclusive OR; `crc8` is one, as each of its rounds is. -/

namespace Sys2Proof
namespace Laws

open Machine

/-- `f` is linear over exclusive OR (R105). -/
def XorLinear {m n : Nat} (f : BitVec m → BitVec n) : Prop := ∀ a b, f (a ^^^ b) = f a ^^^ f b

theorem XorLinear.comp {l m n : Nat} {g : BitVec m → BitVec n} {f : BitVec l → BitVec m}
    (hg : XorLinear g) (hf : XorLinear f) : XorLinear fun x => g (f x) := fun a b =>
  (congrArg g (hf a b)).trans (hg _ _)

theorem XorLinear.xor {m n : Nat} {f g : BitVec m → BitVec n} (hf : XorLinear f)
    (hg : XorLinear g) : XorLinear fun x => f x ^^^ g x := fun a b => by
  simp only [hf a b, hg a b]
  ac_rfl

theorem XorLinear.iterate {n : Nat} {f : BitVec n → BitVec n} (hf : XorLinear f) (k : Nat) :
    XorLinear f^[k] := by
  induction k with
  | zero => exact fun _ _ => rfl
  | succ k ih => exact ih.comp hf

theorem XorLinear.map_zero {m n : Nat} {f : BitVec m → BitVec n} (hf : XorLinear f) : f 0 = 0 := by
  have h := hf 0 0
  rwa [BitVec.xor_self, BitVec.xor_self] at h

theorem xorLinear_setWidth {m : Nat} (n : Nat) : XorLinear fun x : BitVec m => x.setWidth n :=
  fun _ _ => BitVec.setWidth_xor

theorem xorLinear_extractLsb' {m : Nat} (start n : Nat) :
    XorLinear fun x : BitVec m => x.extractLsb' start n := fun _ _ => BitVec.extractLsb'_xor

theorem xorLinear_shiftLeft {n : Nat} (k : Nat) : XorLinear fun x : BitVec n => x <<< k :=
  fun a b => BitVec.shiftLeft_xor_distrib a b k

/-- A conditional exclusive OR, with the condition moved to the constant. -/
theorem ite_xor_eq {n : Nat} (p : Prop) [Decidable p] (x c : BitVec n) :
    (if p then x ^^^ c else x) = x ^^^ if p then c else 0 := by
  split <;> simp

/-- The constant that a given bit selects. -/
theorem xorLinear_ite_getLsbD {m n : Nat} (i : Nat) (c : BitVec n) :
    XorLinear fun x : BitVec m => if x.getLsbD i then c else 0 := fun a b => by
  cases ha : a.getLsbD i <;> cases hb : b.getLsbD i <;> simp [ha, hb]

/-- The exclusive OR of the constants `c i` over the set bits `i` of `v`. -/
def xorOverBits {n : Nat} (c : Nat → BitVec n) (v : U16) : BitVec n :=
  (List.range 16).foldl (fun acc i => if v.getLsbD i then acc ^^^ c i else acc) 0

/-- Adding the bit `n` of `v` to a word changes that bit alone. -/
theorem getLsbD_xor_twoPow_ite (x v : U16) {n : Nat} (hn : n < 16) (j : Nat) :
    (if v.getLsbD n then x ^^^ BitVec.twoPow 16 n else x).getLsbD j =
      (x.getLsbD j ^^ (decide (n = j) && v.getLsbD j)) := by
  by_cases hj : n = j
  · subst hj
    cases hv : v.getLsbD n <;> simp [hn]
  · cases hv : v.getLsbD n <;> simp [hj]

/-- The bits below `n` put together one by one. -/
theorem getLsbD_foldl_bits (v : U16) {n : Nat} (hn : n ≤ 16) (j : Nat) :
    ((List.range n).foldl (fun acc i => if v.getLsbD i then acc ^^^ BitVec.twoPow 16 i else acc)
      0).getLsbD j = (decide (j < n) && v.getLsbD j) := by
  induction n with
  | zero => simp
  | succ n ih =>
    rw [List.range_succ, List.foldl_append, List.foldl_cons, List.foldl_nil,
      getLsbD_xor_twoPow_ite _ _ (by omega), ih (by omega)]
    obtain hj | rfl | hj := lt_trichotomy j n
    · simp [hj, hj.ne', show j < n + 1 by omega]
    · simp
    · simp [hj.not_gt, hj.ne, show ¬ j < n + 1 by omega]

/-- A word is the exclusive OR of its single bits. -/
theorem xorOverBits_bits (v : U16) : xorOverBits (BitVec.twoPow 16) v = v :=
  BitVec.eq_of_getLsbD_eq fun j hj => by
    rw [xorOverBits, getLsbD_foldl_bits v le_rfl j, decide_eq_true hj, Bool.true_and]

/-- A linear function is determined by its single-bit values (R105). -/
theorem XorLinear.eq_xorOverBits {n : Nat} {f : U16 → BitVec n} (hf : XorLinear f) (v : U16) :
    f v = xorOverBits (fun i => f (BitVec.twoPow 16 i)) v := by
  conv_lhs => rw [← xorOverBits_bits v]
  unfold xorOverBits
  rw [← List.foldl_hom f
    (g₂ := fun acc i => if v.getLsbD i then acc ^^^ f (BitVec.twoPow 16 i) else acc)
    (fun acc i => by split; exacts [(hf acc _).symm, rfl]), hf.map_zero]

theorem xorOverBits_congr {n : Nat} {c d : Nat → BitVec n} (h : ∀ i < 16, c i = d i) (v : U16) :
    xorOverBits c v = xorOverBits d v :=
  List.foldl_ext _ _ _ fun acc i hi => by rw [h i (List.mem_range.1 hi)]

/-- Two linear functions that agree on every single bit agree everywhere. -/
theorem XorLinear.ext {n : Nat} {f g : U16 → BitVec n} (hf : XorLinear f) (hg : XorLinear g)
    (h : ∀ i < 16, f (BitVec.twoPow 16 i) = g (BitVec.twoPow 16 i)) (v : U16) : f v = g v := by
  rw [hf.eq_xorOverBits, hg.eq_xorOverBits, xorOverBits_congr h]

/-- Each round is linear: which constant it takes away, the bit it tests alone decides. -/
theorem xorLinear_resultAfter {k : Nat} (hk : k ≤ 16) : XorLinear (resultAfter k) := by
  induction k with
  | zero => exact (xorLinear_shiftLeft 8).comp (xorLinear_setWidth 24)
  | succ k ih =>
    have hround : resultAfter (k + 1) = fun v => resultAfter k v ^^^
        if (resultAfter k v).getLsbD (23 - k) then (0x988000 : BitVec 24) >>> k else 0 :=
      funext fun v => by rw [resultAfter_succ (by omega), ite_xor_eq]
    rw [hround]
    have hprev := ih (by omega)
    exact hprev.xor ((xorLinear_ite_getLsbD _ _).comp hprev)

theorem xorLinear_crc8 : XorLinear crc8 := by
  rw [show crc8 = fun v => (resultAfter 16 v).setWidth 8 from funext crc8_eq_resultAfter]
  exact (xorLinear_setWidth 8).comp (xorLinear_resultAfter le_rfl)

/-- The single bits as the statement of R105 writes them. -/
theorem natCast_one_shiftLeft (i : Nat) : ((1 <<< i : Nat) : U16) = BitVec.twoPow 16 i := by
  rw [Nat.one_shiftLeft, BitVec.natCast_eq_ofNat]
  exact BitVec.eq_of_toNat_eq (by rw [BitVec.toNat_ofNat, BitVec.toNat_twoPow])

/-- `crc8(v)` from its single-bit values (R105). -/
theorem crc8_eq_xorOverBits (v : U16) :
    crc8 v = xorOverBits (fun i => crc8 ↑(1 <<< i)) v := by
  simp only [natCast_one_shiftLeft]
  exact xorLinear_crc8.eq_xorOverBits v

theorem crc8_collision : crc8 0x0031 = 0xF4 ∧ crc8 0x0100 = 0xF4 := by decide

/-- Settles O49: the laws of a linear function, and the collision by running the loop. -/
theorem crcIsLinearAndDeterminedByItsBits : Obligations.CrcIsLinearAndDeterminedByItsBits := by
  unfold Obligations.CrcIsLinearAndDeterminedByItsBits
  exact ⟨xorLinear_crc8.map_zero, xorLinear_crc8, crc8_eq_xorOverBits, crc8_collision⟩

end Laws
end Sys2Proof
end

section
/-! O48: the byte-wise form is linear too, so it is enough to compare the single bits. -/

namespace Sys2Proof
namespace Laws

open Machine

theorem xorLinear_crcShift : XorLinear crcShift := by
  have hshift : crcShift = fun c : Byte => c <<< 1 ^^^ if c.getLsbD 7 then 0x31 else 0 :=
    funext fun c => ite_xor_eq _ _ _
  rw [hshift]
  exact (xorLinear_shiftLeft 1).xor (xorLinear_ite_getLsbD 7 0x31)

theorem xorLinear_crcTable : XorLinear crcTable := xorLinear_crcShift.iterate 8

/-- The initial value 0 drops out: the byte-wise form is the table form (R104). -/
theorem crc8Bytewise_eq_table (v : U16) :
    crc8Bytewise v = crcTable (crcTable (v.extractLsb' 8 8) ^^^ v.extractLsb' 0 8) := by
  rw [crc8Bytewise, show (0 : Byte) ^^^ v.extractLsb' 8 8 = _ from BitVec.zero_xor]

theorem xorLinear_crc8Bytewise : XorLinear crc8Bytewise := by
  rw [funext crc8Bytewise_eq_table]
  exact xorLinear_crcTable.comp
    ((xorLinear_crcTable.comp (xorLinear_extractLsb' 8 8)).xor (xorLinear_extractLsb' 0 8))

set_option maxRecDepth 8000 in
theorem crc8_singleBit_eq_bytewise {i : Nat} (hi : i < 16) :
    crc8 (BitVec.twoPow 16 i) = crc8Bytewise (BitVec.twoPow 16 i) := by
  interval_cases i <;> decide

/-- Settles O48: both forms are linear and agree on the single bits. -/
theorem crcEqualsItsBytewiseForm : Obligations.CrcEqualsItsBytewiseForm := by
  unfold Obligations.CrcEqualsItsBytewiseForm
  intro v
  have h : crc8 v = crc8Bytewise v :=
    xorLinear_crc8.ext xorLinear_crc8Bytewise (fun _ => crc8_singleBit_eq_bytewise) v
  exact ⟨h, h.trans (crc8Bytewise_eq_table v)⟩

end Laws
end Sys2Proof
end

section
/-! O47: the loop divides by `P(x)`, and a remainder below degree 8 is the only one. -/

namespace Sys2Proof
namespace Laws

open Machine

theorem xorLinear_xorOverBits {n : Nat} (c : Nat → BitVec n) : XorLinear (xorOverBits c) := by
  intro a b
  unfold xorOverBits
  rw [← List.foldl_hom₂ (f := (· ^^^ ·))
    (op₃ := fun acc i => if (a ^^^ b).getLsbD i then acc ^^^ c i else acc)]
  · rw [show (0 : BitVec n) ^^^ 0 = 0 from BitVec.xor_self]
  · intro x y i
    have hbit : (if (a ^^^ b).getLsbD i then c i else 0) = _ := xorLinear_ite_getLsbD i (c i) a b
    rw [ite_xor_eq, ite_xor_eq, ite_xor_eq, hbit]
    ac_rfl

theorem xorLinear_timesP : XorLinear timesP := xorLinear_xorOverBits fun i => ↑(0x131 <<< i)

/-- The four terms of `P(x)`. -/
theorem timesP_eq_shifts (q : U16) :
    timesP q = q.setWidth 24 <<< 8 ^^^ q.setWidth 24 <<< 5 ^^^ q.setWidth 24 <<< 4 ^^^
      q.setWidth 24 := by
  have shifted (k : Nat) : XorLinear fun q : U16 => q.setWidth 24 <<< k :=
    (xorLinear_shiftLeft k).comp (xorLinear_setWidth 24)
  refine xorLinear_timesP.ext
    ((((shifted 8).xor (shifted 5)).xor (shifted 4)).xor (xorLinear_setWidth 24)) (fun i hi => ?_) q
  interval_cases i <;> decide

/-- The coefficient of `x^(i+8)` of a multiple of `P(x)`. -/
theorem getLsbD_timesP {i : Nat} (hi : i < 16) (q : U16) :
    (timesP q).getLsbD (i + 8) =
      (q.getLsbD i ^^ q.getLsbD (i + 3) ^^ q.getLsbD (i + 4) ^^ q.getLsbD (i + 8)) := by
  rw [timesP_eq_shifts]
  simp [show i + 8 < 24 by omega, show ¬ i + 8 < 5 by omega, show ¬ i + 8 < 4 by omega,
    show i + 8 - 5 = i + 3 by omega, show i + 8 - 4 = i + 4 by omega]

/-- A multiple of `P(x)` of degree below 8 is the multiple by 0: the highest coefficient of the factor
would be one of the product. -/
theorem eq_zero_of_timesP_eq_byte {q : U16} {b : Byte} (h : timesP q = b.setWidth 24) : q = 0 := by
  have clear : ∀ n i, 16 ≤ i + n → q.getLsbD i = false := by
    intro n
    induction n with
    | zero => exact fun i hi => BitVec.getLsbD_of_ge q i hi
    | succ n ih =>
      intro i hi
      by_cases h16 : i < 16
      · have hbit := getLsbD_timesP h16 q
        rw [h, ih (i + 3) (by omega), ih (i + 4) (by omega), ih (i + 8) (by omega)] at hbit
        simpa using hbit.symm
      · exact BitVec.getLsbD_of_ge q i (by omega)
  exact BitVec.eq_of_getLsbD_eq fun i _ => by rw [clear 16 i (by omega)]; simp

/-- The constant that round `k` takes away is a multiple of `P(x)`. -/
theorem poly_shifted_eq_timesP {k : Nat} (hk : k < 16) :
    (0x988000 : BitVec 24) >>> k = timesP ((0x8000 : U16) >>> k) := by
  interval_cases k <;> decide

/-- After each round `result` differs from `v(x) x^8` by a multiple of `P(x)`. -/
theorem exists_timesP_xor_resultAfter {k : Nat} (hk : k ≤ 16) (v : U16) :
    ∃ q, timesP q ^^^ resultAfter k v = v.setWidth 24 <<< 8 := by
  induction k with
  | zero => exact ⟨0, by rw [xorLinear_timesP.map_zero, resultAfter_zero]; exact BitVec.zero_xor⟩
  | succ k ih =>
    obtain ⟨q, hq⟩ := ih (by omega)
    rw [resultAfter_succ (by omega)]
    split
    · refine ⟨q ^^^ (0x8000 : U16) >>> k, ?_⟩
      rw [poly_shifted_eq_timesP (by omega), xorLinear_timesP, ← hq]
      generalize timesP q = x, timesP ((0x8000 : U16) >>> k) = p, resultAfter k v = y
      rw [show x ^^^ p ^^^ (y ^^^ p) = x ^^^ y ^^^ (p ^^^ p) by ac_rfl]
      simp
    · exact ⟨q, hq⟩

/-- The bit of `P(x)` that cancels the tested bit, and none above it. -/
theorem getLsbD_poly_shifted {k i : Nat} (hi : 23 - k ≤ i) (hk : k < 16) :
    ((0x988000 : BitVec 24) >>> k).getLsbD i = decide (i = 23 - k) := by
  rw [BitVec.getLsbD_ushiftRight]
  by_cases he : i = 23 - k
  · rw [show k + i = 23 by omega, decide_eq_true he]; decide
  · rw [decide_eq_false he, BitVec.getLsbD_of_ge _ _ (by omega)]

/-- After `k` rounds the upper `k` bits of `result` are clear. -/
theorem getLsbD_resultAfter {k i : Nat} (hk : k ≤ 16) (hi : 24 - k ≤ i) (v : U16) :
    (resultAfter k v).getLsbD i = false := by
  induction k generalizing i with
  | zero => exact BitVec.getLsbD_of_ge _ _ hi
  | succ k ih =>
    rw [resultAfter_succ (by omega)]
    by_cases he : i = 23 - k
    · subst he
      split
      · rename_i hset
        simp only [BitVec.getLsbD_xor, hset, getLsbD_poly_shifted le_rfl (show k < 16 by omega),
          decide_true, Bool.xor_self]
      · rename_i hclear
        simpa using hclear
    · have habove := ih (i := i) (by omega) (by omega)
      split
      · rw [BitVec.getLsbD_xor, habove, getLsbD_poly_shifted (by omega) (by omega)]
        simp [he]
      · exact habove

/-- When the loop stops, `result` is the CRC byte alone. -/
theorem resultAfter_last (v : U16) : resultAfter 16 v = (crc8 v).setWidth 24 := by
  rw [crc8_eq_resultAfter]
  refine BitVec.eq_of_getLsbD_eq fun i hi => ?_
  by_cases h8 : i < 8
  · simp [hi, h8]
  · simp [h8, getLsbD_resultAfter (i := i) le_rfl (by omega)]

/-- The division comes out with `crc8(v)` as its remainder (R103). -/
theorem exists_timesP_xor_crc8 (v : U16) :
    ∃ q, timesP q ^^^ (crc8 v).setWidth 24 = v.setWidth 24 <<< 8 := by
  rw [← resultAfter_last]
  exact exists_timesP_xor_resultAfter le_rfl v

/-- Division by `P(x)` has one remainder. -/
theorem remainder_unique {q q' : U16} {b b' : Byte}
    (h : timesP q ^^^ b.setWidth 24 = timesP q' ^^^ b'.setWidth 24) : b = b' := by
  have hdiff : timesP (q ^^^ q') = (b ^^^ b').setWidth 24 := by
    rw [xorLinear_timesP, BitVec.setWidth_xor, ← BitVec.xor_eq_zero_iff]
    generalize timesP q = x, timesP q' = x', b.setWidth 24 = y, b'.setWidth 24 = y' at h ⊢
    rw [show x ^^^ x' ^^^ (y ^^^ y') = x ^^^ y ^^^ (x' ^^^ y') by ac_rfl, h, BitVec.xor_self]
  rw [eq_zero_of_timesP_eq_byte hdiff, xorLinear_timesP.map_zero] at hdiff
  refine BitVec.xor_eq_zero_iff.1 (BitVec.eq_of_getLsbD_eq fun i hi => ?_)
  simpa [show i < 24 by omega] using (congrArg (BitVec.getLsbD · i) hdiff).symm

/-- Settles O47: `crc8(v)` is a remainder, and there is only one. -/
theorem crcIsTheRemainderModuloThePolynomial :
    Obligations.CrcIsTheRemainderModuloThePolynomial := by
  unfold Obligations.CrcIsTheRemainderModuloThePolynomial
  refine ⟨fun _ => rfl, fun v b => ⟨?_, ?_⟩⟩
  · rintro ⟨q, hq⟩
    obtain ⟨q', hq'⟩ := exists_timesP_xor_crc8 v
    exact remainder_unique (hq.trans hq'.symm)
  · rintro rfl
    exact exists_timesP_xor_crc8 v

end Laws
end Sys2Proof
end

section
/-! O23: the step X1 of the three pure operations, where their operation is in progress. -/

namespace Sys2Proof
namespace Laws

open Machine

theorem exec_crc8_x1 {s : State} (hp : s.phase = .x1) (ho : s.curOp = 5) :
    exec (.crc8 (argImm s)) s = .next (crc8X1 s) := by
  simp only [exec, execCrc8, hp, ho, and_self, if_true]

theorem exec_convT_x1 {s : State} (hp : s.phase = .x1) (ho : s.curOp = 6) :
    exec (.convT (argImm s)) s = .next (convTX1 s) := by
  simp only [exec, execConvT, hp, ho, and_self, if_true]

theorem exec_convRh_x1 {s : State} (hp : s.phase = .x1) (ho : s.curOp = 7) :
    exec (.convRh (argImm s)) s = .next (convRhX1 s) := by
  simp only [exec, execConvRh, hp, ho, and_self, if_true]

/-- Settles O23: the operand is the one in `CUR_ARG`. -/
theorem pureOperationsWriteTheirResult : Obligations.PureOperationsWriteTheirResult := by
  unfold Obligations.PureOperationsWriteTheirResult
  rintro s _ hp rfl
  exact ⟨exec_crc8_x1 hp, exec_convT_x1 hp, exec_convRh_x1 hp⟩

end Laws
end Sys2Proof
end

section
/-! O11, O14, O15, O16, O18, O55: the acceptance step, the request port, and the end of an
operation. -/

namespace Sys2Proof
namespace Laws

open Machine

/-! ### What an idle block does with the word presented -/

/-- Taking the presented word leaves the words behind it (R120). -/
theorem takeRequest_of_cons {s : State} {w : Req} {rest : List Req} (hr : s.reqs = w :: rest) :
    takeRequest s = { s with reqs := rest } := by
  simp only [takeRequest, hr, List.tail_cons]

/-- An idle block's next step is the acceptance step of the word presented. -/
theorem fetch_of_presented {s : State} {w : Req} {rest : List Req} (hp : s.phase = .idle)
    (hb : s.busy = false) (hr : s.reqs = w :: rest) : fetch s = .request w := by
  simp [fetch, hp, hb, hr]

/-- Settles O11: the word presented is fetched, decoded and taken. -/
theorem idleStepRunsTheDecodedRequest : Obligations.IdleStepRunsTheDecodedRequest := by
  unfold Obligations.IdleStepRunsTheDecodedRequest
  intro s w rest i hp hb hr hd
  simp only [step, fetch_of_presented hp hb hr, hd, takeRequest_of_cons hr]

/-- In an idle block a rejection writes the status alone (R121, R123). -/
theorem reject_of_idle {s : State} (hp : s.phase = .idle) (hb : s.busy = false) (st : Status) :
    reject st s = { s with lastStatus := st } := by
  simp only [reject, ← hp, ← hb]

/-- Settles O15: an illegal word is one that the decoder rejects. -/
theorem illegalWordsChangeOnlyTheStatus : Obligations.IllegalWordsChangeOnlyTheStatus := by
  unfold Obligations.IllegalWordsChangeOnlyTheStatus
  intro s w rest hp hb hr hw
  obtain ⟨e, he⟩ := (illegalWordsAreThoseTheEncodingRulesList w).2 hw
  simp only [step, fetch_of_presented hp hb hr, he]
  rw [reject_of_idle (by exact hp) (by exact hb), takeRequest_of_cons hr]

/-- The request of each host operation in an idle block: its code, its `CUR_ARG`, its first step. -/
theorem exec_idle_eq_request {s : State} (hp : s.phase = .idle) :
    exec .begin s = request 1 0 .b1 s ∧ exec .reset s = request 2 0 .r1 s ∧
    exec .measure s = request 3 0 .m1 s ∧
    (∀ on, exec (.heater on) s = request 4 (BitVec.ofBool on ++ (0 : U16)) .h1 s) ∧
    ∀ v : U16, exec (.crc8 v) s = request 5 (BitVec.ofBool false ++ v) .x1 s ∧
      exec (.convT v) s = request 6 (BitVec.ofBool false ++ v) .x1 s ∧
      exec (.convRh v) s = request 7 (BitVec.ofBool false ++ v) .x1 s := by
  have harg : packArg false 0 = 0 := by decide
  simp only [exec, execBegin, execReset, execMeasure, execHeater, execCrc8, execConvT, execConvRh,
    hp, harg, true_and]
  exact ⟨fun _ => rfl, fun _ => ⟨rfl, rfl, rfl⟩⟩

/-- Settles O14: the validity table of R123, operation by operation. -/
theorem requestsAreAcceptedExactlyWhereValid :
    Obligations.RequestsAreAcceptedExactlyWhereValid := by
  unfold Obligations.RequestsAreAcceptedExactlyWhereValid
  intro s hp hb
  obtain ⟨hbegin, hreset, hmeasure, hheater, hpure⟩ := exec_idle_eq_request hp
  refine ⟨fun hq => ?_, fun hq => ?_, fun hq => ?_, fun v => ?_⟩
  · have hv : validIn 1 s.seqState = true := by obtain hq | hq := hq <;> rw [hq] <;> rfl
    exact hbegin.trans (request_accepted hp hb hv ..)
  · have hv (op : BitVec 3) (h : validIn op .ready = true) : validIn op s.seqState = true := hq ▸ h
    exact ⟨hreset.trans (request_accepted hp hb (hv 2 rfl) ..),
      hmeasure.trans (request_accepted hp hb (hv 3 rfl) ..),
      fun on => (hheater on).trans (request_accepted hp hb (hv 4 rfl) ..)⟩
  · have hv (op : BitVec 3) (h : validIn op .uninit = false) : validIn op s.seqState = false :=
      hq ▸ h
    rw [← reject_of_idle hp hb]
    exact ⟨hreset.trans (request_rejected hp hb (hv 2 rfl) ..),
      hmeasure.trans (request_rejected hp hb (hv 3 rfl) ..),
      fun on => (hheater on).trans (request_rejected hp hb (hv 4 rfl) ..)⟩
  · obtain ⟨hcrc, hT, hRh⟩ := hpure v
    exact ⟨hcrc.trans (request_accepted hp hb rfl ..), hT.trans (request_accepted hp hb rfl ..),
      hRh.trans (request_accepted hp hb rfl ..)⟩

/-! ### The request port -/

/-- A step of an operation in progress leaves the host's words where they are (R244). -/
theorem busyStep_reqs {s t : State} (h : BusyStep s t) : t.reqs = s.reqs := by
  cases h with
  | waits | b1Acked | b2Done | b3Read | b4Alive | r1Acked | r2Done | m1Acked | m2Done | m3Read
  | m4Matches | m5Matches => simp
  | b1Nacked | b3Failed | b4Degenerate | r1Nacked | m1Nacked | m3Failed | m4Differs | m5Differs =>
    simp
  | b5Ends | r3Ends | m6Commits | h1Acked | h1Nacked | x1Crc8 | x1ConvT | x1ConvRh => simp

/-- Settles O16, by the cases of a step. -/
theorem requestsWaitWhileTheBlockIsBusy : Obligations.RequestsWaitWhileTheBlockIsBusy := by
  unfold Obligations.RequestsWaitWhileTheBlockIsBusy
  intro s t h
  obtain ⟨hp, -, hr, rfl⟩ | ⟨op, arg, first, hp, -, -, -, -, rfl⟩ | ⟨st, hp, -, -, -, rfl⟩ |
    ⟨hp, hb⟩ := step_inversion h
  · exact ⟨fun hn => absurd hp hn, fun _ => by rw [hr, List.tail_nil]⟩
  · exact ⟨fun hn => absurd hp hn, fun _ => rfl⟩
  · exact ⟨fun hn => absurd hp hn, fun _ => rfl⟩
  · exact ⟨fun _ => busyStep_reqs hb, fun hi => absurd hi hp⟩

/-- Settles O55: the host presents its word where it may, and else lets the block step. -/
theorem hostHoldsItsRequestWhileTheBlockIsBusy :
    Obligations.HostHoldsItsRequestWhileTheBlockIsBusy := by
  unfold Obligations.HostHoldsItsRequestWhileTheBlockIsBusy
  intro h w rest ha
  refine ⟨fun hb hr => hostedStep_present ha ⟨hb, hr⟩, fun hheld t ht => ?_⟩
  have hmay : ¬hostMayPresent h.block := by
    rintro ⟨hb, hr⟩
    obtain hbusy | hwaits := hheld
    · exact Bool.noConfusion (hb.symm.trans hbusy)
    · exact hwaits hr
  exact (hostedStep_present_held ha hmay).trans (letBlockStep_of_next _ ht)

/-! ### The end of an operation -/

/-- Settles O18: both are one update of the state. -/
theorem endAndFailWriteWhatTheyName : Obligations.EndAndFailWriteWhatTheyName := by
  unfold Obligations.EndAndFailWriteWhatTheyName
  exact fun st q s => ⟨rfl, rfl⟩

end Laws
end Sys2Proof
end

section
/-! O19, O20, O21, O22, O24, O25: each step of an operation in progress as one update of the state,
for every answer of the transport.  The meanings of the operations and of the command bytes are
these steps. -/

namespace Sys2Proof
namespace Laws

open Machine

/-! ### The transport primitives, answered -/

theorem tpWrite_answered {s : State} {a : Bool} {rest : List Bool} (h : s.acks = a :: rest)
    (cmd : Byte) (f g : State → State) :
    tpWrite cmd f g s =
      if a then f { s with acks := rest, tpLog := conversed (.write cmd) (.ack true) s }
      else g { s with acks := rest, tpLog := conversed (.write cmd) (.ack false) s } := by
  cases a
  · rw [tpWrite_nacked h, issue_eta]; simp only [conversed_eq]; rfl
  · rw [tpWrite_acked h, issue_eta]; simp only [conversed_eq]; rfl

theorem tpDelay_answered {s : State} {n : Nat} (h : s.dones = n + 1) (ms : BitVec 16)
    (f : State → State) :
    tpDelay ms f s = f { s with dones := n, tpLog := conversed (.delay ms) .done s } := by
  rw [tpDelay_done h, issue_eta, conversed_eq]; rfl

theorem tpRead4_failed {s : State} {rest : List (Option Reply4)} (h : s.replies4 = none :: rest)
    (cmd : Byte) (f : State → State) (g : Reply4 → State → State) :
    tpRead4 cmd f g s =
      f { s with replies4 := rest, tpLog := conversed (.read cmd 4) .fail s } := by
  rw [tpRead4_fails h, issue_eta, conversed_eq]; rfl

theorem tpRead4_answered {s : State} {r : Reply4} {rest : List (Option Reply4)}
    (h : s.replies4 = some r :: rest) (cmd : Byte) (f : State → State)
    (g : Reply4 → State → State) :
    tpRead4 cmd f g s =
      g r { s with replies4 := rest, tpLog := conversed (.read cmd 4) (.bytes4 r) s } := by
  rw [tpRead4_bytes h, issue_eta, conversed_eq]; rfl

theorem tpRead6_failed {s : State} {rest : List (Option Reply6)} (h : s.replies6 = none :: rest)
    (cmd : Byte) (f : State → State) (g : Reply6 → State → State) :
    tpRead6 cmd f g s =
      f { s with replies6 := rest, tpLog := conversed (.read cmd 6) .fail s } := by
  rw [tpRead6_fails h, issue_eta, conversed_eq]; rfl

theorem tpRead6_answered {s : State} {r : Reply6} {rest : List (Option Reply6)}
    (h : s.replies6 = some r :: rest) (cmd : Byte) (f : State → State)
    (g : Reply6 → State → State) :
    tpRead6 cmd f g s =
      g r { s with replies6 := rest, tpLog := conversed (.read cmd 6) (.bytes6 r) s } := by
  rw [tpRead6_bytes h, issue_eta, conversed_eq]; rfl

/-! ### The steps of `BEGIN` (R130) -/

theorem step_b1 {s : State} {a : Bool} {rest : List Bool} (hp : s.phase = .b1)
    (ha : s.acks = a :: rest) :
    step s = .next
      (if a then { s with acks := rest, tpLog := conversed (.write 0x1E) (.ack true) s,
                          seqState := .reset, phase := .b2 }
      else endOp .errTransport
        { s with acks := rest, tpLog := conversed (.write 0x1E) (.ack false) s,
                 seqState := .uninit }) :=
  step_of_phaseStep (by simp only [phaseStep, hp]; exact congrArg some (tpWrite_answered ha ..))

theorem step_b1_acked {s : State} {rest : List Bool} (hp : s.phase = .b1)
    (ha : s.acks = true :: rest) :
    step s = .next
      { s with acks := rest, tpLog := conversed (.write 0x1E) (.ack true) s,
               seqState := .reset, phase := .b2 } :=
  step_b1 hp ha

theorem step_b2 {s : State} {n : Nat} (hp : s.phase = .b2) (hd : s.dones = n + 1) :
    step s = .next { s with dones := n, tpLog := conversed (.delay 15) .done s, phase := .b3 } :=
  step_of_phaseStep (by simp only [phaseStep, hp]; exact congrArg some (tpDelay_answered hd ..))

theorem step_b3_failed {s : State} {rest : List (Option Reply4)} (hp : s.phase = .b3)
    (hr : s.replies4 = none :: rest) :
    step s = .next (endOp .errTransport
      { s with replies4 := rest, tpLog := conversed (.read 0x0A 4) .fail s,
               seqState := .uninit }) :=
  step_of_phaseStep (by simp only [phaseStep, hp]; exact congrArg some (tpRead4_failed hr ..))

theorem step_b3_answered {s : State} {r : Reply4} {rest : List (Option Reply4)} (hp : s.phase = .b3)
    (hr : s.replies4 = some r :: rest) :
    step s = .next
      { s with replies4 := rest, tpLog := conversed (.read 0x0A 4) (.bytes4 r) s,
               rx := s.rx.withFirstFour r, phase := .b4 } :=
  step_of_phaseStep (by simp only [phaseStep, hp]; exact congrArg some (tpRead4_answered hr ..))

theorem step_b4 {s : State} (hp : s.phase = .b4) :
    step s = .next
      (if s.cfg.serialZeroIsFailure = true ∧ s.rx.serialOfRx = 0 then
        endOp .errTransport { s with serial := s.rx.serialOfRx, seqState := .uninit }
      else { s with serial := s.rx.serialOfRx, phase := .b5 }) :=
  step_of_phaseStep (by simp only [phaseStep, hp]; rfl)

theorem step_b5 {s : State} (hp : s.phase = .b5) :
    step s = .next (endOp .ok { s with seqState := .ready }) :=
  step_of_phaseStep (by simp only [phaseStep, hp]; rfl)

/-- In its five steps, the meaning of `BEGIN` is the step. -/
theorem exec_begin_of_step {s t : State} (h : step s = .next t)
    (hp : s.phase ∈ [Phase.b1, .b2, .b3, .b4, .b5]) : exec .begin s = .next t :=
  (step_execBegin hp).symm.trans h

/-- Settles O19, step by step. -/
theorem beginRunsItsFiveSteps : Obligations.BeginRunsItsFiveSteps := by
  unfold Obligations.BeginRunsItsFiveSteps
  exact ⟨fun s rest hp ha => exec_begin_of_step (step_b1_acked hp ha) (by simp [hp]),
    fun s rest hp ha => exec_begin_of_step (step_b1 hp ha) (by simp [hp]),
    fun s n hp hd => exec_begin_of_step (step_b2 hp hd) (by simp [hp]),
    fun s rest hp hr => exec_begin_of_step (step_b3_failed hp hr) (by simp [hp]),
    fun s r rest hp hr => exec_begin_of_step (step_b3_answered hp hr) (by simp [hp]),
    fun s hp => exec_begin_of_step (step_b4 hp) (by simp [hp]),
    fun s hp => exec_begin_of_step (step_b5 hp) (by simp [hp])⟩

/-! ### The steps of `RESET` (R140) -/

theorem step_r1 {s : State} {a : Bool} {rest : List Bool} (hp : s.phase = .r1)
    (ha : s.acks = a :: rest) :
    step s = .next
      (if a then { s with acks := rest, tpLog := conversed (.write 0x1E) (.ack true) s,
                          seqState := .reset, phase := .r2 }
      else endOp .errCmdWrite
        { s with acks := rest, tpLog := conversed (.write 0x1E) (.ack false) s,
                 seqState := .ready }) :=
  step_of_phaseStep (by simp only [phaseStep, hp]; exact congrArg some (tpWrite_answered ha ..))

theorem step_r2 {s : State} {n : Nat} (hp : s.phase = .r2) (hd : s.dones = n + 1) :
    step s = .next { s with dones := n, tpLog := conversed (.delay 15) .done s, phase := .r3 } :=
  step_of_phaseStep (by simp only [phaseStep, hp]; exact congrArg some (tpDelay_answered hd ..))

theorem step_r3 {s : State} (hp : s.phase = .r3) :
    step s = .next (endOp .ok { s with seqState := .ready }) :=
  step_of_phaseStep (by simp only [phaseStep, hp]; rfl)

/-- In its three steps, the meaning of `RESET` is the step. -/
theorem exec_reset_of_step {s t : State} (h : step s = .next t)
    (hp : s.phase ∈ [Phase.r1, .r2, .r3]) : exec .reset s = .next t :=
  (step_execReset hp).symm.trans h

/-- Settles O20, step by step. -/
theorem resetRunsItsThreeSteps : Obligations.ResetRunsItsThreeSteps := by
  unfold Obligations.ResetRunsItsThreeSteps
  exact ⟨fun s rest hp ha => exec_reset_of_step (step_r1 hp ha) (by simp [hp]),
    fun s rest hp ha => exec_reset_of_step (step_r1 hp ha) (by simp [hp]),
    fun s n hp hd => exec_reset_of_step (step_r2 hp hd) (by simp [hp]),
    fun s hp => exec_reset_of_step (step_r3 hp) (by simp [hp])⟩

/-! ### The steps of `MEASURE` (R150) -/

theorem step_m1 {s : State} {a : Bool} {rest : List Bool} (hp : s.phase = .m1)
    (ha : s.acks = a :: rest) :
    step s = .next
      (if a then { s with acks := rest, tpLog := conversed (.write 0x40) (.ack true) s,
                          seqState := .converting, phase := .m2 }
      else endOp .errCmdWrite
        { s with acks := rest, tpLog := conversed (.write 0x40) (.ack false) s,
                 seqState := .ready }) :=
  step_of_phaseStep (by simp only [phaseStep, hp]; exact congrArg some (tpWrite_answered ha ..))

theorem step_m1_acked {s : State} {rest : List Bool} (hp : s.phase = .m1)
    (ha : s.acks = true :: rest) :
    step s = .next
      { s with acks := rest, tpLog := conversed (.write 0x40) (.ack true) s,
               seqState := .converting, phase := .m2 } :=
  step_m1 hp ha

theorem step_m2 {s : State} {n : Nat} (hp : s.phase = .m2) (hd : s.dones = n + 1) :
    step s = .next { s with dones := n, tpLog := conversed (.delay 20) .done s, phase := .m3 } :=
  step_of_phaseStep (by simp only [phaseStep, hp]; exact congrArg some (tpDelay_answered hd ..))

theorem step_m3_failed {s : State} {rest : List (Option Reply6)} (hp : s.phase = .m3)
    (hr : s.replies6 = none :: rest) :
    step s = .next (endOp .errTransport
      { s with replies6 := rest, tpLog := conversed (.read 0x00 6) .fail s,
               seqState := .ready }) :=
  step_of_phaseStep (by simp only [phaseStep, hp]; exact congrArg some (tpRead6_failed hr ..))

theorem step_m3_answered {s : State} {r : Reply6} {rest : List (Option Reply6)} (hp : s.phase = .m3)
    (hr : s.replies6 = some r :: rest) :
    step s = .next
      { s with replies6 := rest, tpLog := conversed (.read 0x00 6) (.bytes6 r) s, rx := r,
               phase := .m4 } :=
  step_of_phaseStep (by simp only [phaseStep, hp]; exact congrArg some (tpRead6_answered hr ..))

theorem step_m4 {s : State} (hp : s.phase = .m4) :
    step s = .next
      (if crc8 s.rx.rawT = s.rx.tempCrc then { s with seqState := .decoded, phase := .m5 }
      else endOp .errIntegrity { s with seqState := .ready }) :=
  step_of_phaseStep (by simp only [phaseStep, hp]; rfl)

theorem step_m5 {s : State} (hp : s.phase = .m5) :
    step s = .next
      (if crc8 s.rx.rawRh = s.rx.humCrc then { s with phase := .m6 }
      else endOp .errIntegrity { s with seqState := .ready }) :=
  step_of_phaseStep (by simp only [phaseStep, hp]; rfl)

theorem step_m6 {s : State} (hp : s.phase = .m6) : step s = .next (measureM6 s) :=
  step_of_phaseStep (by simp only [phaseStep, hp])

/-- The commit with a listed sample of `NOW_MS` (R33). -/
theorem measureM6_of_sample {s : State} {now : U32} {rest : List U32} (hn : s.nowMs = now :: rest) :
    measureM6 s = endOp .ok
      { s with measT := tempC s.cfg.convRounding s.rx.rawT,
               measRh := rhPct s.cfg.convRounding s.rx.rawRh,
               measTs := now, nowMs := rest, measValid := true, seqState := .ready } := by
  simp only [measureM6, sampledNow, nowValue, hn]

/-- The commit with a free timestamp (log entry 4). -/
theorem measureM6_of_no_sample {s : State} (hn : s.nowMs = []) :
    measureM6 s = endOp .ok
      { s with measT := tempC s.cfg.convRounding s.rx.rawT,
               measRh := rhPct s.cfg.convRounding s.rx.rawRh,
               measTs := Config.freeNowMs s.draws, draws := s.draws + 1, measValid := true,
               seqState := .ready } := by
  simp only [measureM6, sampledNow, nowValue, hn]

/-- In its six steps, the meaning of `MEASURE` is the step. -/
theorem exec_measure_of_step {s t : State} (h : step s = .next t)
    (hp : s.phase ∈ [Phase.m1, .m2, .m3, .m4, .m5, .m6]) : exec .measure s = .next t :=
  (step_execMeasure hp).symm.trans h

/-- Settles O21, step by step. -/
theorem measureRunsItsSixSteps : Obligations.MeasureRunsItsSixSteps := by
  unfold Obligations.MeasureRunsItsSixSteps
  refine ⟨fun s rest hp ha => exec_measure_of_step (step_m1_acked hp ha) (by simp [hp]),
    fun s rest hp ha => exec_measure_of_step (step_m1 hp ha) (by simp [hp]),
    fun s n hp hd => exec_measure_of_step (step_m2 hp hd) (by simp [hp]),
    fun s rest hp hr => exec_measure_of_step (step_m3_failed hp hr) (by simp [hp]),
    fun s r rest hp hr => exec_measure_of_step (step_m3_answered hp hr) (by simp [hp]),
    fun s hp => exec_measure_of_step (step_m4 hp) (by simp [hp]),
    fun s hp => exec_measure_of_step (step_m5 hp) (by simp [hp]),
    fun s now rest hp hn => ?_, fun s hp hn => ?_⟩
  · rw [exec_measure_of_step (step_m6 hp) (by simp [hp]), measureM6_of_sample hn]; rfl
  · rw [exec_measure_of_step (step_m6 hp) (by simp [hp]), measureM6_of_no_sample hn]; rfl

/-! ### The step of `HEATER` (R160) -/

theorem step_h1 {s : State} {a : Bool} {rest : List Bool} (hp : s.phase = .h1)
    (ha : s.acks = a :: rest) :
    step s = .next (endOp (if a then .ok else .errCmdWrite)
      { s with acks := rest,
               tpLog := conversed (.write (if argOn s then 0x04 else 0x02)) (.ack a) s }) :=
  step_of_phaseStep (by
    simp only [phaseStep, hp]
    cases a <;> exact congrArg some (tpWrite_answered ha ..))

/-- Settles O22: the switch position is the one in `CUR_ARG`. -/
theorem heaterSendsItsByteAndReportsTheAck : Obligations.HeaterSendsItsByteAndReportsTheAck := by
  unfold Obligations.HeaterSendsItsByteAndReportsTheAck
  rintro s _ a rest hp rfl ha
  exact (step_execHeater hp).symm.trans (step_h1 hp ha)

/-! ### The command bytes (R170 to R175) -/

/-- The meaning of the instruction fetched is the step (log entry 19 for the command bytes). -/
theorem exec_of_fetch {s t : State} {i : Instr} (h : step s = .next t) (hf : fetch s = .running i) :
    exec i s = .next t :=
  (step_of_running hf).symm.trans h

/-- Settles O24: each byte in the step that sends it. -/
theorem resetConversionAndReadCommandsRunInTheirSteps :
    Obligations.ResetConversionAndReadCommandsRunInTheirSteps := by
  unfold Obligations.ResetConversionAndReadCommandsRunInTheirSteps
  exact ⟨fun s a rest hp ha => exec_of_fetch (step_b1 hp ha) (by simp only [fetch, hp]),
    fun s a rest hp ha => exec_of_fetch (step_r1 hp ha) (by simp only [fetch, hp]),
    fun s a rest hp ha => exec_of_fetch (step_m1 hp ha) (by simp only [fetch, hp]),
    fun s r rest hp hr => exec_of_fetch (step_b3_answered hp hr) (by simp only [fetch, hp]),
    fun s rest hp hr => exec_of_fetch (step_b3_failed hp hr) (by simp only [fetch, hp]),
    fun s r rest hp hr => exec_of_fetch (step_m3_answered hp hr) (by simp only [fetch, hp]),
    fun s rest hp hr => exec_of_fetch (step_m3_failed hp hr) (by simp only [fetch, hp])⟩

/-- Settles O25: H1 sends the byte of its switch position, and not the other. -/
theorem heaterCommandsRunInTheirStep : Obligations.HeaterCommandsRunInTheirStep := by
  unfold Obligations.HeaterCommandsRunInTheirStep
  intro s a rest hp ha
  have hstep := step_h1 hp ha
  refine ⟨fun (hon : argOn s = true) => ⟨?_, ?_⟩, fun (hoff : argOn s = false) => ⟨?_, ?_⟩⟩
  · rw [hon] at hstep
    exact exec_of_fetch hstep (by simp [fetch, hp, hon])
  · simp [exec, execWireHeaterOff, hp, hon]
  · rw [hoff] at hstep
    exact exec_of_fetch hstep (by simp [fetch, hp, hoff])
  · simp [exec, execWireHeaterOn, hp, hoff]

end Laws
end Sys2Proof
end

section
/-! O33: the step successions of R176.  A step of an operation passes on to its successor, waits for
the transport, or ends the operation, in the state that the operation's rule names. -/

namespace Sys2Proof
namespace Laws

open Machine

/-- Where control goes from a step of an operation in progress: it ends the operation, early only
with a failure and never in a delay; it passes on to its successor; or it waits with its transaction
outstanding. -/
theorem busyStep_control {s t : State} (h : BusyStep s t) :
    (t.phase = .idle ∧ s.phase ∉ [Phase.b2, .r2, .m2] ∧
      (nextPhase s.phase ≠ none → t.lastStatus ≠ .ok)) ∨
    nextPhase s.phase = some t.phase ∨
    (t.phase = s.phase ∧ stepTransaction s ≠ none ∧ outstanding t = stepTransaction s) := by
  cases h with
  | waits x hx =>
    exact .inr (.inr ⟨issue_phase x s, by simp [hx], (outstanding_issue x s).trans hx.symm⟩)
  -- the steps that pass on
  | b1Acked _ hp | b2Done _ hp | b3Read _ _ hp | b4Alive hp | r1Acked _ hp | r2Done _ hp
  | m1Acked _ hp | m2Done _ hp | m3Read _ _ hp | m4Matches hp | m5Matches hp =>
    exact .inr (.inl (by rw [hp]; rfl))
  -- the steps that fail
  | b1Nacked _ hp | b3Failed _ hp | b4Degenerate hp | r1Nacked _ hp | m1Nacked _ hp
  | m3Failed _ hp | m4Differs hp | m5Differs hp =>
    exact .inl ⟨rfl, by simp [hp], by simp⟩
  -- the last steps
  | b5Ends hp | r3Ends hp | m6Commits hp | h1Acked _ hp | h1Nacked _ hp | x1Crc8 hp | x1ConvT hp
  | x1ConvRh hp =>
    exact .inl ⟨rfl, by simp [hp], by simp [hp, nextPhase]⟩

/-- In which state each operation ends (R176): `BEGIN` in `READY` or, where it fails, in `UNINIT`;
the other three of the sequencer in `READY`; the pure operations where they started. -/
def EndsAsItsOperation (s t : State) : Prop :=
  (s.curOp = 1 →
    (t.lastStatus = .ok ∧ t.seqState = .ready) ∨ (t.lastStatus ≠ .ok ∧ t.seqState = .uninit)) ∧
  (s.curOp = 2 ∨ s.curOp = 3 ∨ s.curOp = 4 → t.seqState = .ready) ∧
  (s.curOp = 5 ∨ s.curOp = 6 ∨ s.curOp = 7 → t.lastStatus = .ok ∧ t.seqState = s.seqState)

theorem endsAsItsOperation_begin {s t : State} (ho : s.curOp = 1)
    (h : (t.lastStatus = .ok ∧ t.seqState = .ready) ∨
      (t.lastStatus ≠ .ok ∧ t.seqState = .uninit)) : EndsAsItsOperation s t := by
  simp [EndsAsItsOperation, ho, h]

theorem endsAsItsOperation_ready {s t : State} (ho : s.curOp = 2 ∨ s.curOp = 3 ∨ s.curOp = 4)
    (h : t.seqState = .ready) : EndsAsItsOperation s t := by
  obtain ho | ho | ho := ho <;> simp [EndsAsItsOperation, ho, h]

theorem endsAsItsOperation_pure {s t : State} (ho : s.curOp = 5 ∨ s.curOp = 6 ∨ s.curOp = 7)
    (hst : t.lastStatus = .ok) (hq : t.seqState = s.seqState) : EndsAsItsOperation s t := by
  obtain ho | ho | ho := ho <;> simp [EndsAsItsOperation, ho, hst, hq]

/-- A step that ends its operation ends it in the operation's state. -/
theorem busyStep_endsAsItsOperation {s t : State} (hi : SeqInv s) (hs : s.phase ≠ .idle)
    (h : BusyStep s t) (ht : t.phase = .idle) : EndsAsItsOperation s t := by
  obtain ⟨-, hq, hop⟩ := hi
  cases h with
  | waits x => exact absurd ((issue_phase x s).symm.trans ht) hs
  | b1Acked | b2Done | b3Read | b4Alive | r1Acked | r2Done | m1Acked | m2Done | m3Read | m4Matches
  | m5Matches => exact absurd ht (by simp)
  | b1Nacked _ hp | b3Failed _ hp | b4Degenerate hp =>
    exact endsAsItsOperation_begin (by simpa [hp, opFitsPhase] using hop) (.inr (by simp))
  | b5Ends hp =>
    exact endsAsItsOperation_begin (by simpa [hp, opFitsPhase] using hop) (.inl ⟨rfl, rfl⟩)
  | r1Nacked _ hp | r3Ends hp =>
    exact endsAsItsOperation_ready (.inl (by simpa [hp, opFitsPhase] using hop)) rfl
  | m1Nacked _ hp | m3Failed _ hp | m4Differs hp | m5Differs hp | m6Commits hp =>
    exact endsAsItsOperation_ready (.inr (.inl (by simpa [hp, opFitsPhase] using hop))) rfl
  | h1Acked _ hp | h1Nacked _ hp =>
    have ho : s.curOp = 4 := by simpa [hp, opFitsPhase] using hop
    have hready : s.seqState = .ready := by simpa [hp, seqFitsPhase] using hq
    exact endsAsItsOperation_ready (.inr (.inr ho)) (by simpa using hready)
  | x1Crc8 _ ho => exact endsAsItsOperation_pure (.inl ho) rfl rfl
  | x1ConvT _ ho => exact endsAsItsOperation_pure (.inr (.inl ho)) rfl rfl
  | x1ConvRh _ ho => exact endsAsItsOperation_pure (.inr (.inr ho)) rfl rfl

/-- Settles O33, by the cases of a step. -/
theorem controlFollowsTheStepSuccessions : Obligations.ControlFollowsTheStepSuccessions := by
  unfold Obligations.ControlFollowsTheStepSuccessions
  intro s t hi h
  obtain ⟨hp, op, arg, b, p, st, rq, hfrom, rfl⟩ | ⟨hp, hb⟩ := step_idle_or_busy h
  · exact ⟨fun _ => ⟨rfl, by simpa using fromIdle_mem hfrom⟩, fun hn => absurd hp hn,
      fun hn => absurd hp hn⟩
  · exact ⟨fun hidle => absurd hidle hp, fun _ => busyStep_control hb,
      fun _ => busyStep_endsAsItsOperation hi hp hb⟩

end Laws
end Sys2Proof
end

section
/-! O43, O44, O45: a whole `MEASURE` and a whole `BEGIN`, from the idle block to its end, where the
transport answers.  Both go the same way up to the step that looks at the reply. -/

namespace Sys2Proof
namespace Laws

open Machine

/-- A transaction that the step is not yet waiting for is issued and answered. -/
theorem conversed_of_none_outstanding {s : State} (h : outstanding s = none) (x : Transaction)
    (a : Answer) : conversed x a s = .answered a :: .sent x :: s.tpLog := by
  have hout : outstanding s ≠ some x := by simp [h]
  rw [conversed_eq, issue_tpLog, if_neg hout]

/-! ### `MEASURE` up to its reply -/

/-- An idle `READY` block with a `MEASURE` presented, and the transport's answers to its three
transactions: an acknowledgement, `Done` and the reply `r`. -/
structure MeasureAnswered (s : State) (rest : List Req) (acks : List Bool) (n : Nat) (r : Reply6)
    (replies : List (Option Reply6)) : Prop where
  idle : s.phase = .idle
  free : s.busy = false
  ready : s.seqState = .ready
  presented : s.reqs = 0x000003 :: rest
  acked : s.acks = true :: acks
  done : s.dones = n + 1
  replied : s.replies6 = some r :: replies

/-- An idle `READY` block takes the `MEASURE` presented to it up in M1 (R120, R123). -/
theorem step_takes_measure {s : State} {rest : List Req} (hp : s.phase = .idle)
    (hb : s.busy = false) (hq : s.seqState = .ready) (hr : s.reqs = 0x000003 :: rest) :
    step s =
      .next { s with reqs := rest, curOp := 3, curArg := 0, busy := true, phase := .m1 } := by
  rw [idleStepRunsTheDecodedRequest s _ rest .measure hp hb hr (by decide)]
  obtain ⟨-, hvalid, -, -⟩ := requestsAreAcceptedExactlyWhereValid { s with reqs := rest } hp hb
  obtain ⟨-, hmeasure, -⟩ := hvalid hq
  exact hmeasure

/-- The block in M4 of the `MEASURE` taken up in `s`, with the reply `r` in `RX` (R150). -/
def measureRead (s : State) (rest : List Req) (acks : List Bool) (n : Nat) (r : Reply6)
    (replies : List (Option Reply6)) : State :=
  { s with
    curOp := 3, curArg := 0, busy := true, phase := .m4, seqState := .converting, rx := r
    reqs := rest, acks := acks, dones := n, replies6 := replies
    tpLog := .answered (.bytes6 r) :: .sent (.read 0x00 6) :: .answered .done ::
      .sent (.delay 20) :: conversed (.write 0x40) (.ack true) s }

/-- The acceptance step and M1 to M3. -/
theorem runSteps_measureRead {s : State} {rest : List Req} {acks : List Bool} {n : Nat} {r : Reply6}
    {replies : List (Option Reply6)} (h : MeasureAnswered s rest acks n r replies) (k : Nat) :
    runSteps (k + 4) s = runSteps k (measureRead s rest acks n r replies) :=
  calc
    _ = _ := runSteps_succ_next (step_takes_measure h.idle h.free h.ready h.presented) (k + 3)
    _ = _ := runSteps_succ_next (step_m1_acked (rest := acks) rfl (by exact h.acked)) (k + 2)
    _ = _ := runSteps_succ_next (step_m2 (n := n) rfl (by exact h.done)) (k + 1)
    _ = _ := runSteps_succ_next (step_m3_answered (rest := replies) rfl (by exact h.replied)) k

/-- M4 to M6 on a reply whose CRC bytes match, with a sample of `NOW_MS` listed. -/
theorem runSteps_measure_good {u : State} {now : U32} {nows : List U32} (hp : u.phase = .m4)
    (hc : u.rx.crcsMatch) (hn : u.nowMs = now :: nows) :
    runSteps 3 u = .next (endOp .ok
      { u with measT := tempC u.cfg.convRounding u.rx.rawT,
               measRh := rhPct u.cfg.convRounding u.rx.rawRh,
               measTs := now, nowMs := nows, measValid := true, seqState := .ready }) := by
  obtain ⟨hT, hRh⟩ := hc
  have h5 : step { u with seqState := .decoded, phase := .m5 } =
      .next { u with seqState := .decoded, phase := .m6 } :=
    (step_m5 rfl).trans (congrArg Host.Outcome.next (if_pos hRh))
  rw [runSteps_succ_next (step_m4 hp), if_pos hT, runSteps_succ_next h5,
    runSteps_succ_next (step_m6 rfl), runSteps_zero]
  exact congrArg Host.Outcome.next (measureM6_of_sample hn)

/-- M4 on a reply whose temperature CRC does not match. -/
theorem runSteps_measure_badT {u : State} (hp : u.phase = .m4)
    (hT : crc8 u.rx.rawT ≠ u.rx.tempCrc) :
    runSteps 1 u = .next (endOp .errIntegrity { u with seqState := .ready }) := by
  rw [runSteps_succ_next (step_m4 hp), if_neg hT, runSteps_zero]

/-- M4 and M5 on a reply whose humidity CRC alone does not match. -/
theorem runSteps_measure_badRh {u : State} (hp : u.phase = .m4) (hT : crc8 u.rx.rawT = u.rx.tempCrc)
    (hRh : crc8 u.rx.rawRh ≠ u.rx.humCrc) :
    runSteps 2 u = .next (endOp .errIntegrity { u with seqState := .ready }) := by
  rw [runSteps_succ_next (step_m4 hp), if_pos hT, runSteps_succ_next (step_m5 rfl)]
  exact congrArg Host.Outcome.next (if_neg hRh)

/-- Settles O43: a checked reply is committed with the sampled timestamp. -/
theorem measureWithAGoodReplyPublishesIt : Obligations.MeasureWithAGoodReplyPublishesIt := by
  unfold Obligations.MeasureWithAGoodReplyPublishesIt
  intro s rest acks n r replies now nows hp hb hq hr ha hd h6 hn hout hT hRh
  have hrun := runSteps_measureRead ⟨hp, hb, hq, hr, ha, hd, h6⟩ 3
  refine ⟨_, hrun.trans (runSteps_measure_good rfl ⟨hT, hRh⟩ (by exact hn)), rfl, rfl, rfl,
    rfl, rfl, rfl, rfl, rfl, rfl, rfl, rfl, ?_⟩
  simp [measureRead, conversed_of_none_outstanding hout]

/-- Settles O44: the reply is looked at in M4 and M5, and the first mismatch ends the operation. -/
theorem measureWithABadCrcPublishesNothing : Obligations.MeasureWithABadCrcPublishesNothing := by
  unfold Obligations.MeasureWithABadCrcPublishesNothing
  intro s rest acks n r replies hp hb hq hr ha hd h6
  have hrun := runSteps_measureRead ⟨hp, hb, hq, hr, ha, hd, h6⟩
  refine ⟨fun hT => ?_, fun hT hRh => ?_⟩
  · exact ⟨_, (hrun 1).trans (runSteps_measure_badT rfl hT), rfl, rfl, rfl, rfl, .refl s, rfl⟩
  · exact ⟨_, (hrun 2).trans (runSteps_measure_badRh rfl hT hRh), rfl, rfl, rfl, rfl, .refl s, rfl⟩

/-! ### `BEGIN` up to its reply -/

/-- An idle block in `UNINIT` or `READY` with a `BEGIN` presented, and the transport's answers to
its three transactions: an acknowledgement, `Done` and the reply `r`. -/
structure BeginAnswered (s : State) (rest : List Req) (acks : List Bool) (n : Nat) (r : Reply4)
    (replies : List (Option Reply4)) : Prop where
  idle : s.phase = .idle
  free : s.busy = false
  valid : s.seqState = .uninit ∨ s.seqState = .ready
  presented : s.reqs = 0x000001 :: rest
  acked : s.acks = true :: acks
  done : s.dones = n + 1
  replied : s.replies4 = some r :: replies

/-- An idle block in `UNINIT` or `READY` takes the `BEGIN` presented to it up in B1 (R120, R123). -/
theorem step_takes_begin {s : State} {rest : List Req} (hp : s.phase = .idle) (hb : s.busy = false)
    (hq : s.seqState = .uninit ∨ s.seqState = .ready) (hr : s.reqs = 0x000001 :: rest) :
    step s =
      .next { s with reqs := rest, curOp := 1, curArg := 0, busy := true, phase := .b1 } := by
  rw [idleStepRunsTheDecodedRequest s _ rest .begin hp hb hr (by decide)]
  obtain ⟨hvalid, -⟩ := requestsAreAcceptedExactlyWhereValid { s with reqs := rest } hp hb
  exact hvalid hq

/-- The block in B4 of the `BEGIN` taken up in `s`, with the reply `r` in `RX[0..3]` (R130). -/
def serialRead (s : State) (rest : List Req) (acks : List Bool) (n : Nat) (r : Reply4)
    (replies : List (Option Reply4)) : State :=
  { s with
    curOp := 1, curArg := 0, busy := true, phase := .b4, seqState := .reset
    rx := s.rx.withFirstFour r
    reqs := rest, acks := acks, dones := n, replies4 := replies
    tpLog := .answered (.bytes4 r) :: .sent (.read 0x0A 4) :: .answered .done ::
      .sent (.delay 15) :: conversed (.write 0x1E) (.ack true) s }

/-- The acceptance step and B1 to B3. -/
theorem runSteps_serialRead {s : State} {rest : List Req} {acks : List Bool} {n : Nat} {r : Reply4}
    {replies : List (Option Reply4)} (h : BeginAnswered s rest acks n r replies) (k : Nat) :
    runSteps (k + 4) s = runSteps k (serialRead s rest acks n r replies) :=
  calc
    _ = _ := runSteps_succ_next (step_takes_begin h.idle h.free h.valid h.presented) (k + 3)
    _ = _ := runSteps_succ_next (step_b1_acked (rest := acks) rfl (by exact h.acked)) (k + 2)
    _ = _ := runSteps_succ_next (step_b2 (n := n) rfl (by exact h.done)) (k + 1)
    _ = _ := runSteps_succ_next (step_b3_answered (rest := replies) rfl (by exact h.replied)) k

/-- B4 on a serial that the parameter makes a failure. -/
theorem runSteps_begin_degenerate {u : State} (hp : u.phase = .b4)
    (hz : u.cfg.serialZeroIsFailure = true ∧ u.rx.serialOfRx = 0) :
    runSteps 1 u =
      .next (endOp .errTransport { u with serial := u.rx.serialOfRx, seqState := .uninit }) := by
  rw [runSteps_succ_next (step_b4 hp), if_pos hz, runSteps_zero]

/-- B4 and B5 on any other serial. -/
theorem runSteps_begin_alive {u : State} (hp : u.phase = .b4)
    (hz : ¬(u.cfg.serialZeroIsFailure = true ∧ u.rx.serialOfRx = 0)) :
    runSteps 2 u =
      .next (endOp .ok { u with serial := u.rx.serialOfRx, phase := .b5, seqState := .ready }) := by
  rw [runSteps_succ_next (step_b4 hp), if_neg hz, runSteps_succ_next (step_b5 rfl), runSteps_zero]

/-- Settles O45: the two branches of B4. -/
theorem beginWithASerialReplyEndsReadyOrDegenerate :
    Obligations.BeginWithASerialReplyEndsReadyOrDegenerate := by
  unfold Obligations.BeginWithASerialReplyEndsReadyOrDegenerate
  intro s rest acks n r replies hp hb hq hr ha hd h4 hout
  have hrun := runSteps_serialRead ⟨hp, hb, hq, hr, ha, hd, h4⟩
  have hlog : (serialRead s rest acks n r replies).tpLog =
      [.answered (.bytes4 r), .sent (.read 0x0A 4), .answered .done, .sent (.delay 15),
        .answered (.ack true), .sent (.write 0x1E)] ++ s.tpLog := by
    simp [serialRead, conversed_of_none_outstanding hout]
  by_cases hz : s.cfg.serialZeroIsFailure = true ∧ r.b0 ++ r.b1 ++ r.b2 ++ r.b3 = (0 : U32)
  · refine ⟨endOp .errTransport { serialRead s rest acks n r replies with
      serial := r.serialOf, seqState := .uninit },
      rfl, rfl, rfl, .refl s, rfl, rfl, hlog, ?_⟩
    rw [if_pos hz]
    exact ⟨(hrun 1).trans (runSteps_begin_degenerate rfl hz), rfl, rfl⟩
  · refine ⟨endOp .ok { serialRead s rest acks n r replies with
      serial := r.serialOf, phase := .b5, seqState := .ready },
      rfl, rfl, rfl, .refl s, rfl, rfl, hlog, ?_⟩
    rw [if_neg hz]
    exact ⟨(hrun 2).trans (runSteps_begin_alive rfl hz), rfl, rfl⟩

end Laws
end Sys2Proof
end

section
/-! O42: the commit invariant of R152.  `MeasureRun` is what every run keeps that starts with a
`MEASURE` presented to an idle `READY` block: the block has not taken it up yet, it is in progress
with the Measurement untouched, it has ended as R152 says, or a later word has been taken. -/

namespace Sys2Proof
namespace Laws

open Machine

/-- The two ends of a `MEASURE` that R152 allows. -/
def MeasureEnds (s t : State) : Prop :=
  (t.lastStatus = .ok ∧ t.measValid = true ∧ t.measTs = nowValue s ∧
    ∃ r, s.replies6.head? = some (some r) ∧ MeasurementOf r t) ∨
  (t.lastStatus ≠ .ok ∧ SameMeasurement s t)

/-- The reply that the `MEASURE` taken up in `s` reads is still to come up to M3, and in `RX` from
M4 on. -/
def ReplyFrom (s u : State) : Prop :=
  match u.phase with
  | .m1 | .m2 | .m3 => u.replies6 = s.replies6
  | .m4 | .m5 | .m6 => s.replies6.head? = some (some u.rx)
  | _ => False

/-- The `MEASURE` taken up in `s` is in progress: the Measurement and the inputs of the commit are
as in `s`, and what has been checked of the reply holds (R150). -/
structure MeasureInProgress (s : State) (rest : List Req) (u : State) : Prop where
  taken : u.reqs = rest
  same : SameMeasurement s u
  now : nowValue u = nowValue s
  reply : ReplyFrom s u
  checked : rxChecked u

/-- A step that changes neither `NOW_MS` nor the draws leaves the sample that comes next. -/
theorem nowValue_congr {s t : State} (hn : t.nowMs = s.nowMs) (hd : t.draws = s.draws) :
    nowValue t = nowValue s := by
  simp only [nowValue, hn, hd]

/-- A step of the operation that does not end it keeps the next sample of `NOW_MS`. -/
theorem busyStep_nowValue {s t : State} (h : BusyStep s t) (ht : t.phase ≠ .idle) :
    nowValue t = nowValue s := by
  cases h with
  | waits | b1Acked | b2Done | b3Read | b4Alive | r1Acked | r2Done | m1Acked | m2Done | m3Read
  | m4Matches | m5Matches => exact nowValue_congr (by simp) (by simp)
  | _ => exact absurd rfl ht

/-- A step that does not end the `MEASURE` keeps track of its reply. -/
theorem busyStep_replyFrom {s u t : State} (hr : ReplyFrom s u) (h : BusyStep u t)
    (ht : t.phase ≠ .idle) : ReplyFrom s t := by
  unfold ReplyFrom at hr
  cases h with
  | waits x => simpa [ReplyFrom] using hr
  | m1Acked _ hp | m2Done _ hp => simpa [ReplyFrom, hp] using hr
  | m3Read r rest hp h6 =>
    simp only [hp] at hr
    simp [ReplyFrom, ← hr, h6]
  | m4Matches hp | m5Matches hp => simpa [ReplyFrom, hp] using hr
  | b1Acked _ hp | b2Done _ hp | b3Read _ _ hp | b4Alive hp | r1Acked _ hp | r2Done _ hp =>
    simp [hp] at hr
  | _ => exact absurd rfl ht

/-- A `MEASURE` that ends before its commit ends with a failure. -/
theorem busyStep_measure_fails {s u t : State} (hr : ReplyFrom s u) (h : BusyStep u t)
    (hp : u.phase ≠ .m6) (ht : t.phase = .idle) : t.lastStatus ≠ .ok := by
  have hnext : nextPhase u.phase ≠ none := by
    unfold ReplyFrom at hr
    cases hu : u.phase <;> simp_all [nextPhase]
  obtain ⟨-, -, hst⟩ | hpass | ⟨hstay, -⟩ := busyStep_control h
  · exact hst hnext
  · obtain ⟨-, hne, -⟩ := nextPhase_some hpass
    exact absurd ht hne
  · rw [← hstay, ht] at hnext
    exact absurd rfl hnext

/-- The commit publishes the reply that was read and checked. -/
theorem measureEnds_commit {s u : State} {rest : List Req} (hi : MeasureInProgress s rest u)
    (hp : u.phase = .m6) : MeasureEnds s (measureM6 u) := by
  obtain ⟨-, -, hnow, hreply, hrx⟩ := hi
  simp only [ReplyFrom, hp] at hreply
  simp only [rxChecked, hp] at hrx
  obtain ⟨hmem, hcrc⟩ := hrx
  exact .inl ⟨rfl, rfl, hnow, u.rx, hreply, by simpa [measureM6] using hmem, hcrc,
    by simp [measureM6], by simp [measureM6]⟩

/-- A step of the `MEASURE` keeps it in progress, or ends it as R152 says. -/
theorem measureInProgress_step {s u t : State} {rest : List Req} (hi : MeasureInProgress s rest u)
    (h : BusyStep u t) :
    (t.phase ≠ .idle ∧ MeasureInProgress s rest t) ∨ (t.phase = .idle ∧ MeasureEnds s t) := by
  by_cases hp : u.phase = .m6
  · rw [busyStep_m6 h hp]
    exact .inr ⟨rfl, measureEnds_commit hi hp⟩
  · obtain ⟨htaken, hsame, hnow, hreply, hrx⟩ := hi
    have hsame' := hsame.trans (busyStep_sameMeasurement h hp)
    by_cases ht : t.phase = .idle
    · exact .inr ⟨ht, .inr ⟨busyStep_measure_fails hreply h hp ht, hsame'⟩⟩
    · exact .inl ⟨ht, (busyStep_reqs h).trans htaken, hsame', (busyStep_nowValue h ht).trans hnow,
        busyStep_replyFrom hreply h ht, busyStep_rxChecked hrx h⟩

/-- What a run from `s`, with a `MEASURE` and then the words `rest` presented, has reached. -/
inductive MeasureRun (s : State) (rest : List Req) : State → Prop where
  | start : MeasureRun s rest s
  | running {u : State} (hp : u.phase ≠ .idle) (hi : MeasureInProgress s rest u) :
      MeasureRun s rest u
  | ended {u : State} (hp : u.phase = .idle) (hr : u.reqs = rest) (he : MeasureEnds s u) :
      MeasureRun s rest u
  | later {u : State} (hr : u.reqs.length < rest.length) : MeasureRun s rest u

/-- No step lengthens the list of words still to come. -/
theorem step_reqs_length {s t : State} (h : step s = .next t) : t.reqs.length ≤ s.reqs.length := by
  obtain ⟨hbusy, hidle⟩ := requestsWaitWhileTheBlockIsBusy s t h
  by_cases hp : s.phase = .idle
  · rw [hidle hp, List.length_tail]
    omega
  · rw [hbusy hp]

/-- Every step keeps `MeasureRun`. -/
theorem measureRun_step {s : State} {rest : List Req} (hp : s.phase = .idle) (hb : s.busy = false)
    (hq : s.seqState = .ready) (hr : s.reqs = 0x000003 :: rest) (u t : State)
    (hu : MeasureRun s rest u) (h : step u = .next t) : MeasureRun s rest t := by
  cases hu with
  | start =>
    cases (step_takes_measure hp hb hq hr).symm.trans h
    exact .running (by simp) ⟨rfl, .refl s, rfl, rfl, trivial⟩
  | running hpu hi =>
    obtain ⟨hpi, -⟩ | ⟨-, hbs⟩ := step_idle_or_busy h
    · exact absurd hpi hpu
    · obtain ⟨ht, hi'⟩ | ⟨ht, he⟩ := measureInProgress_step hi hbs
      · exact .running ht hi'
      · exact .ended ht ((busyStep_reqs hbs).trans hi.taken) he
  | ended hpu hru he =>
    obtain ⟨-, hidle⟩ := requestsWaitWhileTheBlockIsBusy u t h
    cases rest with
    | nil =>
      obtain ⟨-, -, -, rfl⟩ | ⟨_, _, _, -, -, hne, -⟩ | ⟨_, -, -, hne, -⟩ | ⟨hne, -⟩ :=
        step_inversion h
      · exact .ended hpu hru he
      · exact absurd hru hne
      · exact absurd hru hne
      · exact absurd hpu hne
    | cons w ws => exact .later (by simp [hidle hpu, hru])
  | later hlt => exact .later ((step_reqs_length h).trans_lt hlt)

/-- Settles O42, by the invariant of the run: idle with just the `MEASURE` taken, it has ended. -/
theorem measureCommitsACheckedReplyOrKeepsTheMeasurement :
    Obligations.MeasureCommitsACheckedReplyOrKeepsTheMeasurement := by
  unfold Obligations.MeasureCommitsACheckedReplyOrKeepsTheMeasurement
  intro s t rest k hp hb hq hr hrun ht htaken
  cases runSteps_keeps (measureRun_step hp hb hq hr) .start hrun with
  | start => simp [hr] at htaken
  | running hpt => exact absurd ht hpt
  | ended _ _ he => exact he
  | later hlt => simp [htaken] at hlt

end Laws
end Sys2Proof
end

section
/-! O51, O52: the conversions under `EXACT_RNE`.  Rounding is monotone, in the patterns (and so in the
exponents) and in the values.  A conversion rounds `num / 65535`; where `num` is not zero its magnitude
lies between 1 and `125 * 65535`, and the patterns of these two are normal. -/

namespace Sys2Proof
namespace Laws

open Machine

/-! ### Rounding is monotone -/

theorem roundQuotient_mono {n n' : Nat} (h : n ≤ n') (d : Nat) :
    roundQuotient n d ≤ roundQuotient n' d := by
  have hq : n / d ≤ n' / d := Nat.div_le_div_right h
  obtain hlt | heq := hq.lt_or_eq
  · exact (roundQuotient_le n d).trans (hlt.trans_le (le_roundQuotient n' d))
  · have hn := Nat.div_add_mod n d
    have hn' := Nat.div_add_mod n' d
    unfold roundQuotient
    rw [← heq] at hn' ⊢
    split <;> split <;> omega

theorem binadeOf_mono {n n' : Nat} (h : n ≤ n') (den : Nat) : binadeOf n den ≤ binadeOf n' den := by
  have hlog := Nat.log_mono_right (b := 2) (Nat.div_le_div_right (c := den) h)
  simp only [binadeOf, Nat.log2_eq_log_two]
  omega

/-- In one binade the significands keep the order; a lower binade's significand carries at most to the
foot of the next. -/
theorem roundedPattern_mono {n n' : Nat} (h : n ≤ n') (den : Nat) :
    roundedPattern n den ≤ roundedPattern n' den := by
  unfold roundedPattern
  obtain hlt | heq := (binadeOf_mono h den).lt_or_eq
  · have hcarry := roundQuotient_le n (den * 2 ^ binadeOf n den)
    have hbits := quotient_lt n den
    have hlead := le_quotient (n := n') (den := den) (by omega)
    have hfoot := le_roundQuotient n' (den * 2 ^ binadeOf n' den)
    omega
  · rw [heq]
    exact Nat.add_le_add_left (roundQuotient_mono h _) _

theorem roundMagnitude_mono {num num' : Nat} (h : num ≤ num') (den : Nat) :
    roundMagnitude num den ≤ roundMagnitude num' den :=
  min_le_min_right _ (roundedPattern_mono (Nat.mul_le_mul_right _ h) den)

/-- Rounding keeps the order of two values, for neither is nearer to the other's rounded value than to
its own. -/
theorem unitsOf_rne32_mono {num num' : Int} {den : Nat} (hden : 0 < den) (h : num ≤ num')
    (hfin : (rne32 num den).toNat % 2 ^ 31 < 0x7F800000)
    (hfin' : (rne32 num' den).toNat % 2 ^ 31 < 0x7F800000) :
    unitsOf (rne32 num den) ≤ unitsOf (rne32 num' den) := by
  obtain hlt | rfl := h.lt_or_eq
  · obtain ⟨hnear, -⟩ := rne32_nearest num hden hfin (rne32 num' den)
    obtain ⟨hnear', -⟩ := rne32_nearest num' hden hfin' (rne32 num den)
    refine le_of_mul_le_mul_right ?_ (Int.natCast_pos.2 hden)
    omega
  · exact le_rfl

/-! ### Normal patterns -/

theorem exponent_toNat (b : U32) :
    (b.extractLsb' 23 8).toNat = b.toNat % 2 ^ 31 / 2 ^ 23 := by
  rw [BitVec.extractLsb'_toNat, Nat.shiftRight_eq_div_pow]
  omega

/-- A quotient by 65535 that is not zero, of at most 125, rounds to a normal value. -/
theorem roundMagnitude_normal {num : Nat} (h0 : num ≠ 0) (h : num ≤ 125 * 65535) :
    2 ^ 23 ≤ roundMagnitude num 65535 ∧ roundMagnitude num 65535 < 0x7F800000 := by
  have hone : 2 ^ 23 ≤ roundMagnitude 1 65535 := by decide
  have hmax : roundMagnitude (125 * 65535) 65535 < 0x7F800000 := by decide
  exact ⟨hone.trans (roundMagnitude_mono (Nat.pos_of_ne_zero h0) _),
    (roundMagnitude_mono h _).trans_lt hmax⟩

theorem rne32_finite {num : Int} (h : num.natAbs ≤ 125 * 65535) :
    (rne32 num 65535).toNat % 2 ^ 31 < 0x7F800000 := by
  rw [rne32_toNat_mod]
  by_cases h0 : num.natAbs = 0
  · rw [h0, roundMagnitude_zero]; decide
  · exact (roundMagnitude_normal h0 h).2

theorem rne32_exponent_normal {num : Int} (h0 : num ≠ 0) (h : num.natAbs ≤ 125 * 65535) :
    0 < (rne32 num 65535).extractLsb' 23 8 ∧ (rne32 num 65535).extractLsb' 23 8 < 255 := by
  obtain ⟨hlow, hhigh⟩ := roundMagnitude_normal (Int.natAbs_ne_zero.2 h0) h
  simp only [BitVec.lt_def, exponent_toNat, rne32_toNat_mod, BitVec.ofNat_eq_ofNat,
    BitVec.toNat_ofNat]
  omega

/-! ### The conversions under `EXACT_RNE` -/

theorem tempC_exactRne_mono {a b : U16} (h : a.toNat ≤ b.toNat) :
    unitsOf (tempC .exactRne a) ≤ unitsOf (tempC .exactRne b) :=
  have ha := a.isLt
  have hb := b.isLt
  unitsOf_rne32_mono (by decide) (by omega) (rne32_finite (by omega)) (rne32_finite (by omega))

theorem rhPct_exactRne_mono {a b : U16} (h : a.toNat ≤ b.toNat) :
    unitsOf (rhPct .exactRne a) ≤ unitsOf (rhPct .exactRne b) :=
  have ha := a.isLt
  have hb := b.isLt
  unitsOf_rne32_mono (by decide) (by omega) (rne32_finite (by omega)) (rne32_finite (by omega))

theorem tempC_exactRne_normal (a : U16) :
    0 < (tempC .exactRne a).extractLsb' 23 8 ∧ (tempC .exactRne a).extractLsb' 23 8 < 255 :=
  have ha := a.isLt
  rne32_exponent_normal (by omega) (by omega)

theorem rhPct_exactRne_normal {a : U16} (h0 : a ≠ 0) :
    0 < (rhPct .exactRne a).extractLsb' 23 8 ∧ (rhPct .exactRne a).extractLsb' 23 8 < 255 :=
  have ha := a.isLt
  have hpos : a.toNat ≠ 0 := fun h => h0 (BitVec.eq_of_toNat_eq h)
  rne32_exponent_normal (by omega) (by omega)

theorem rhPct_exactRne_sign (a : U16) : (rhPct .exactRne a).getLsbD 31 = false := by
  refine Nat.testBit_lt_two_pow ?_
  rw [rhPct, rne32_toNat_nonneg (by omega)]
  exact (roundMagnitude_le _ _).trans_lt (by decide)

/-- `tempC` changes sign between 15887 and 15888, the two raw counts nearest to 0 degrees. -/
theorem tempC_exactRne_at_sign_change :
    tempC .exactRne 15887 = 0xBA3400B4 ∧ tempC .exactRne 15888 = 0x3AF000F0 := by
  decide

/-- The magnitudes grow away from the sign change on either side. -/
theorem tempC_exactRne_smallest (a : U16) :
    (unitsOf (tempC .exactRne 15887)).natAbs ≤ (unitsOf (tempC .exactRne a)).natAbs := by
  obtain ⟨hneg, hpos⟩ := tempC_exactRne_at_sign_change
  have hsign : unitsOf 0xBA3400B4 < 0 ∧ -unitsOf 0xBA3400B4 ≤ unitsOf 0x3AF000F0 := by decide
  obtain hle | hlt := le_or_gt a.toNat 15887
  · have hmono := tempC_exactRne_mono (b := 15887) hle
    rw [hneg] at hmono ⊢
    omega
  · have hmono := tempC_exactRne_mono (a := 15888) hlt
    rw [hpos] at hmono
    rw [hneg]
    omega

/-- Settles O51: the values of the table, one by one. -/
theorem conversionsOfTheFifthsAreExact : Obligations.ConversionsOfTheFifthsAreExact := by
  unfold Obligations.ConversionsOfTheFifthsAreExact
  decide

/-- Settles O52: order, smallest magnitude and normality come from the monotonicity of rounding, the
ends from the table of R186. -/
theorem conversionRangesAndMonotonicity : Obligations.ConversionRangesAndMonotonicity := by
  unfold Obligations.ConversionRangesAndMonotonicity
  obtain ⟨htemp0, hrh0, -, -, -, -, -, -, -, -, htempMax, hrhMax, -⟩ :=
    conversionsOfTheFifthsAreExact
  refine ⟨fun a b h => ⟨tempC_exactRne_mono h, rhPct_exactRne_mono h⟩, htemp0, htempMax, hrh0,
    hrhMax, tempC_exactRne_at_sign_change.1, fun a => ?_⟩
  obtain ⟨hlow, hhigh⟩ := tempC_exactRne_normal a
  refine ⟨by omega, tempC_exactRne_smallest a, hlow, hhigh, fun h0 => ?_⟩
  obtain ⟨hlow', hhigh'⟩ := rhPct_exactRne_normal h0
  exact ⟨hlow', hhigh', rhPct_exactRne_sign a⟩

end Laws
end Sys2Proof
end

section
/-! O34, O36: failures and progress (60_exceptions.md).  The registers that the host reads at indices 1
to 4 are written only by steps that end `OK`; and a block whose bookkeeping agrees always has a next
state, since every legal request word is a host operation, which an idle block takes up or rejects. -/

namespace Sys2Proof
namespace Laws

open Machine

/-! ### The writers of the Measurement and of `RESULT` end `OK` -/

/-- The commit M6 and the step X1 have no failing case (R101, R150, R181, R182). -/
theorem busyStep_commit_or_x1_ok {s t : State} (h : BusyStep s t)
    (hp : s.phase = .m6 ∨ s.phase = .x1) : t.lastStatus = .ok := by
  cases h with
  | m6Commits | x1Crc8 | x1ConvT | x1ConvRh => rfl
  | waits x hx => obtain hp | hp := hp <;> simp [stepTransaction, hp] at hx
  | _ => simp_all

/-- A step after which the status is not `OK` is neither the commit nor X1. -/
theorem phase_of_step_not_ok {s t : State} (h : step s = .next t) (hf : t.lastStatus ≠ .ok) :
    s.phase ≠ .m6 ∧ s.phase ≠ .x1 := by
  refine not_or.1 fun hp => ?_
  obtain ⟨hidle, -⟩ | ⟨-, hb⟩ := step_idle_or_busy h
  · simp [hidle] at hp
  · exact hf (busyStep_commit_or_x1_ok hb hp)

/-- Settles O34: the two writers of O27 and O28 are the steps that cannot fail. -/
theorem failureChangesNoRegisterButStatus : Obligations.FailureChangesNoRegisterButStatus := by
  unfold Obligations.FailureChangesNoRegisterButStatus
  intro s t h hf
  obtain ⟨hm6, hx1⟩ := phase_of_step_not_ok h hf
  obtain ⟨-, hwriter⟩ := onlyThePureOperationsWriteResult
  have hmeas : SameMeasurement s t :=
    (onlyTheCommitStepWritesTheMeasurement s t h).resolve_right fun ⟨hp, _⟩ => hm6 hp
  have hresult : t.result = s.result := (hwriter s t h).resolve_right fun ⟨hp, _⟩ => hx1 hp
  obtain ⟨-, hT, hRh, hTs⟩ := id hmeas
  exact ⟨hmeas, hresult, hT, hRh, hTs, hresult⟩

/-! ### An idle block always answers -/

/-- An idle block accepts or rejects a request (R120, R123). -/
theorem exists_request_next {s : State} (hp : s.phase = .idle) (hb : s.busy = false) (op : BitVec 3)
    (arg : BitVec 17) (first : Phase) : ∃ t, request op arg first s = .next t := by
  cases hv : validIn op s.seqState with
  | true => exact ⟨_, request_accepted hp hb hv arg first⟩
  | false => exact ⟨_, request_rejected hp hb hv arg first⟩

/-- An idle block answers every instruction that stands for request fields; the device command bytes
stand for none. -/
theorem exists_exec_next_of_fields? {s : State} {i : Instr} {f : ReqFields} (hp : s.phase = .idle)
    (hb : s.busy = false) (hf : i.fields? = some f) : ∃ t, exec i s = .next t := by
  have hreq := exists_request_next hp hb
  obtain ⟨hbegin, hreset, hmeasure, hheater, hpure⟩ := exec_idle_eq_request hp
  cases i with
  | begin => exact hbegin ▸ hreq ..
  | reset => exact hreset ▸ hreq ..
  | measure => exact hmeasure ▸ hreq ..
  | heater on => exact hheater on ▸ hreq ..
  | crc8 v => obtain ⟨hcrc, -, -⟩ := hpure v; exact hcrc ▸ hreq ..
  | convT v => obtain ⟨-, hT, -⟩ := hpure v; exact hT ▸ hreq ..
  | convRh v => obtain ⟨-, -, hRh⟩ := hpure v; exact hRh ▸ hreq ..
  | wireReset | wireStartConversion | wireReadSerial | wireReadTh | wireHeaterOn | wireHeaterOff =>
    cases hf

/-- An idle block has a next state, whatever the host presents: no word, an illegal one, or one that
decodes to a host operation (R75, R120, R121). -/
theorem exists_step_of_idle {s : State} (hp : s.phase = .idle) (hb : s.busy = false) :
    ∃ t, step s = .next t := by
  cases hr : s.reqs with
  | nil => exact ⟨s, step_idle hp hb hr⟩
  | cons w rest =>
    simp only [step, fetch_of_presented hp hb hr]
    cases hd : decodeReq w with
    | error _ => exact ⟨_, rfl⟩
    | ok i =>
      exact exists_exec_next_of_fields? (s := takeRequest s) hp hb
        ((decodeReq_eq_ok_iff_fields? w i).1 hd)

/-- Settles O36: an idle block answers every request, and a busy one has the step `phase` names. -/
theorem everyStepOfABookkeptBlockAnswersANextState :
    Obligations.EveryStepOfABookkeptBlockAnswersANextState := by
  unfold Obligations.EveryStepOfABookkeptBlockAnswersANextState
  intro s hi
  by_cases hp : s.phase = .idle
  · obtain ⟨hbusy, -, -⟩ := hi
    exact exists_step_of_idle hp (by simpa [hp] using hbusy)
  · obtain ⟨t, ht⟩ := exists_phaseStep hi hp
    exact ⟨t, step_of_phaseStep ht⟩

end Laws
end Sys2Proof
end

section
/-! O9: what block reset leaves in the registers (70_reset_and_hazards.md R230).  The model's reset
state is a block reset too, so each fact about block reset holds of both. -/

namespace Sys2Proof
namespace Laws

open Machine

/-- The registers R230 gives a value have it after block reset, from any state. -/
theorem blockReset_registers (s : State) :
    (blockReset s).seqState = .uninit ∧ (blockReset s).busy = false ∧
      (blockReset s).phase = .idle ∧ (blockReset s).lastStatus = .noneYet ∧
      (blockReset s).measValid = false ∧ (blockReset s).measT = 0 ∧ (blockReset s).measRh = 0 ∧
      (blockReset s).measTs = 0 ∧ (blockReset s).result = 0 :=
  ⟨rfl, rfl, rfl, rfl, rfl, rfl, rfl, rfl, rfl⟩

/-- Block reset does no transport transaction: the conversation it leaves is empty (log entry 8). -/
@[simp] theorem blockReset_tpLog (s : State) : (blockReset s).tpLog = [] := rfl

/-- The model's reset state is its own block reset. -/
@[simp] theorem blockReset_reset : blockReset State.reset = State.reset := rfl

/-- Settles O9: both states are block resets, and an empty conversation holds no new event. -/
theorem blockResetGivesTheStatedValues : Obligations.BlockResetGivesTheStatedValues := by
  unfold Obligations.BlockResetGivesTheStatedValues
  intro s t ht
  obtain ⟨r, rfl⟩ : ∃ r, t = blockReset r :=
    ht.elim (⟨s, ·⟩) fun h => ⟨State.reset, h.trans blockReset_reset.symm⟩
  have hnew : ∀ e, e ∈ (blockReset r).tpLog → e ∈ s.tpLog := by simp [blockReset_tpLog]
  obtain ⟨hseq, hbusy, hphase, hlast, hvalid, hT, hRh, hTs, hresult⟩ := blockReset_registers r
  exact ⟨hseq, hbusy, hphase, hlast, hvalid, hT, hRh, hTs, hresult, hnew⟩

end Laws
end Sys2Proof
end

section
/-! O17, O53: where an instruction has no step to run (log entry 10), and how one is placed so that
the next step runs it (log entry 9). -/

namespace Sys2Proof
namespace Laws

open Machine

/-! ### Outside an instruction's own steps -/

/-- A block with an operation in progress takes no request. -/
theorem request_of_inProgress {s : State} (hs : s.phase ≠ .idle) (op : BitVec 3)
    (arg : BitVec 17) (first : Phase) : request op arg first s = .refused .requestWhileBusy :=
  request_busy (fun ⟨hidle, _⟩ => hs hidle) op arg first

/-- Outside its own steps, each sequenced operation is a request. -/
theorem exec_eq_request_of_foreign (s : State) :
    (s.phase ∉ [Phase.b1, .b2, .b3, .b4, .b5] →
      exec .begin s = request 1 (packArg false 0) .b1 s) ∧
    (s.phase ∉ [Phase.r1, .r2, .r3] → exec .reset s = request 2 (packArg false 0) .r1 s) ∧
    (s.phase ∉ [Phase.m1, .m2, .m3, .m4, .m5, .m6] →
      exec .measure s = request 3 (packArg false 0) .m1 s) := by
  simp only [exec]
  refine ⟨fun h => ?_, fun h => ?_, fun h => ?_⟩
  · unfold execBegin
    split
    case h_6 => rfl
    all_goals simp_all
  · unfold execReset
    split
    case h_4 => rfl
    all_goals simp_all
  · unfold execMeasure
    split
    case h_7 => rfl
    all_goals simp_all

/-- With an operation in progress, `HEATER` refuses but in H1 with its own switch position. -/
theorem exec_heater_of_foreign {s : State} (hs : s.phase ≠ .idle) {on : Bool}
    (h : ¬(s.phase = .h1 ∧ argOn s = on)) :
    exec (.heater on) s = .refused .requestWhileBusy := by
  simp only [exec, execHeater]
  split
  · next hp => exact if_neg fun hon => h ⟨hp, hon⟩
  · exact request_of_inProgress hs ..

/-- With an operation in progress, a pure operation refuses but in X1 with its own code and
operand. -/
theorem exec_pure_of_foreign {s : State} (hs : s.phase ≠ .idle) (v : U16) :
    (¬(s.phase = .x1 ∧ s.curOp = 5 ∧ argImm s = v) →
      exec (.crc8 v) s = .refused .requestWhileBusy) ∧
    (¬(s.phase = .x1 ∧ s.curOp = 6 ∧ argImm s = v) →
      exec (.convT v) s = .refused .requestWhileBusy) ∧
    (¬(s.phase = .x1 ∧ s.curOp = 7 ∧ argImm s = v) →
      exec (.convRh v) s = .refused .requestWhileBusy) := by
  simp only [exec, execCrc8, execConvT, execConvRh]
  refine ⟨fun h => ?_, fun h => ?_, fun h => ?_⟩
  all_goals
    split
    · next hp => exact if_neg fun hown => h ⟨hp, hown⟩
    · exact request_of_inProgress hs ..

/-- A command byte other than the heater's refuses but in the steps that send it (R170 to R173). -/
theorem exec_command_of_foreign (s : State) :
    (s.phase ≠ .b1 → s.phase ≠ .r1 → exec .wireReset s = .refused .commandNotSentHere) ∧
    (s.phase ≠ .m1 → exec .wireStartConversion s = .refused .commandNotSentHere) ∧
    (s.phase ≠ .b3 → exec .wireReadSerial s = .refused .commandNotSentHere) ∧
    (s.phase ≠ .m3 → exec .wireReadTh s = .refused .commandNotSentHere) := by
  simp only [exec, execWireReset, execWireStartConversion, execWireReadSerial, execWireReadTh]
  refine ⟨fun hb hr => ?_, fun hm => ?_, fun hb => ?_, fun hm => ?_⟩
  · split
    · contradiction
    · contradiction
    · rfl
  all_goals
    split
    · contradiction
    · rfl

/-- A heater command byte refuses but in H1 with its own switch position (R174, R175). -/
theorem exec_heaterCommand_of_foreign (s : State) :
    (¬(s.phase = .h1 ∧ argOn s = true) →
      exec .wireHeaterOn s = .refused .commandNotSentHere) ∧
    (¬(s.phase = .h1 ∧ argOn s = false) →
      exec .wireHeaterOff s = .refused .commandNotSentHere) := by
  simp only [exec, execWireHeaterOn, execWireHeaterOff]
  refine ⟨fun h => ?_, fun h => ?_⟩
  all_goals
    split
    · next hp => exact if_neg fun hon => h ⟨hp, hon⟩
    · rfl

/-- Settles O17: outside its steps a host operation is a request, which a busy block refuses, and a
command byte has no other meaning. -/
theorem noInstructionRunsInAForeignStep : Obligations.NoInstructionRunsInAForeignStep := by
  unfold Obligations.NoInstructionRunsInAForeignStep
  intro s hs
  obtain ⟨hbegin, hreset, hmeasure⟩ := exec_eq_request_of_foreign s
  obtain ⟨hcmdReset, hcmdStart, hcmdSerial, hcmdTh⟩ := exec_command_of_foreign s
  obtain ⟨hcmdOn, hcmdOff⟩ := exec_heaterCommand_of_foreign s
  have hrefuses := request_of_inProgress hs
  exact ⟨fun h => (hbegin h).trans (hrefuses ..), fun h => (hreset h).trans (hrefuses ..),
    fun h => (hmeasure h).trans (hrefuses ..), fun _ => exec_heater_of_foreign hs,
    exec_pure_of_foreign hs, hcmdReset, hcmdStart, hcmdSerial, hcmdTh, hcmdOn, hcmdOff⟩

/-! ### Placing an instruction -/

/-- A request word that is placed is presented to an idle block, and taken. -/
theorem step_placeRequest {w : Req} {i : Instr} (hd : decodeReq w = .ok i) (s : State) :
    step (placeRequest w s) = exec i { s with busy := false, phase := .idle } :=
  idleStepRunsTheDecodedRequest (placeRequest w s) w s.reqs i rfl rfl rfl hd

/-- H1 sends the byte of its switch position (R174, R175). -/
theorem fetch_h1 {s : State} {on : Bool} (hp : s.phase = .h1) (hon : argOn s = on) :
    fetch s = .running (if on then .wireHeaterOn else .wireHeaterOff) := by
  simp only [fetch, hp, hon]

/-- A command byte that is placed is what the next step sends. -/
theorem fetch_placeCommand {i : Instr} {b : Byte} (h : encode i = .wire8 b) (s : State) :
    fetch (placeCommand b s) = .running i := by
  cases i with
  | wireReset | wireStartConversion | wireReadSerial | wireReadTh => cases h; rfl
  | wireHeaterOn => cases h; exact fetch_h1 (on := true) rfl (packArg_on true 0)
  | wireHeaterOff => cases h; exact fetch_h1 (on := false) rfl (packArg_on false 0)
  | begin | reset | measure | heater | crc8 | convT | convRh => cases h

/-- Settles O53: a request word decodes to the instruction it encodes, and a command byte is sent by
the step it is placed in. -/
theorem placedInstructionRunsNext : Obligations.PlacedInstructionRunsNext := by
  unfold Obligations.PlacedInstructionRunsNext
  exact fun s i => ⟨fun w hw => step_placeRequest ((decodeReq_eq_ok_iff_encode w i).2 hw) s,
    fun b hb => step_of_running (fetch_placeCommand hb s)⟩

end Laws
end Sys2Proof
end
